-- ==== Sys2Proof/Word.lean ====
section
/-! DEFINITION. The word types of the block: bytes of SRC and of the pending buffers, the 32-bit words of the
register window and of XH32, the 64-bit words of XH64 (spec/00_scope.md R9, R12). -/

namespace Sys2Proof

/-- One byte of SRC or of a pending buffer (spec/20_memory.md R50). -/
abbrev Byte := BitVec 8

/-- A register of the window, a command word, or a word of XH32 (spec/10_state.md R31, spec/00_scope.md R9). -/
abbrev Word32 := BitVec 32

/-- A word of XH64, the RESULT pair, or the seed pair (spec/00_scope.md R9, spec/10_state.md R37, R38). -/
abbrev Word64 := BitVec 64

end Sys2Proof
end

