-- ==== Sys2Proof/Config.lean ====
section
/-! DEFINITION. What one implementation of the block fixes: the size of SRC, the spec's one open parameter
(spec/00_scope.md R10, spec/92_eei_decisions.md "OPEN"). No command of this block leaves a value undefined, so there is
no free value here. -/

namespace Sys2Proof

/-- The implementation's parameters. The state carries them unchanged, so that a claim about every state is a claim
about every implementation (log 1). -/
structure Config where
  /-- SRC_BYTES: the number of bytes of SRC (spec/00_scope.md R10, spec/20_memory.md R51). -/
  srcBytes : Nat
  deriving DecidableEq, Repr

/-- The range the spec gives SRC_BYTES: `1 <= SRC_BYTES <= 2^32` (spec/00_scope.md R10). -/
def Config.wf (c : Config) : Bool :=
  decide (1 ≤ c.srcBytes) && decide (c.srcBytes ≤ 2 ^ 32)

/-- The parameters at `State.reset`: 64 bytes of SRC, the size with which the spec's own host programs run
(spec/95_test_vectors.md §3). DESIGN CHOICE (log 1), unsafe for a claim that rests on 64. -/
def Config.atReset : Config := { srcBytes := 64 }

end Sys2Proof
end

