-- ==== Sys2Proof/Machine/HostPort.lean ====
section
/-! DEFINITION. What reaches the block from outside between two steps: the host's accesses to the register window and to
SRC, and power-on (spec/20_memory.md R58, R59, R69; spec/70_reset_and_hazards.md R230, R235). -/

namespace Sys2Proof.Machine

/-- The registers of the window (spec/10_state.md R31). -/
inductive Reg where
  | cmd | status | errinfo | argOff | argLen | argSeedLo | argSeedHi | resultLo | resultHi
  /-- Offsets 0x0C and 0x28 to 0x3C: read 0, write ignored (spec/10_state.md R39). -/
  | reserved
  deriving DecidableEq, Repr

/-- One input of the block. An access the block does not define is written here too: the step refuses it
(spec/20_memory.md R58, R59; log 9). -/
inductive Access where
  /-- A host read of `bytes` bytes at `offset` of the register window. -/
  | regRead (offset bytes : Nat)
  /-- A host write of `bytes` bytes at `offset` of the register window. -/
  | regWrite (offset bytes : Nat) (value : Word32)
  /-- `HostSrcRead(a)`. -/
  | srcRead (addr : Nat)
  /-- `HostSrcWrite(a, v)`. -/
  | srcWrite (addr : Nat) (value : Byte)
  /-- Power returns and power-on reset applies (spec/60_exceptions.md R217; log 5). -/
  | powerOn
  deriving DecidableEq, Repr

/-- A value one host read returned (spec/70_reset_and_hazards.md R235). -/
inductive Shown where
  | reg (value : Word32)
  | src (value : Byte)
  deriving DecidableEq, Repr

/-- The one defined shape of a REG access: 32 bits, at a 4-byte-aligned offset inside 0x00 to 0x3F
(spec/20_memory.md R58). -/
def regAccessDefined (offset bytes : Nat) : Bool :=
  decide (bytes = 4) && decide (offset % 4 = 0) && decide (offset < 0x40)

/-- A host SRC access is defined below SRC_BYTES (spec/20_memory.md R59). -/
def srcAccessDefined (cfg : Config) (addr : Nat) : Bool :=
  decide (addr < cfg.srcBytes)

/-- The register at an offset of the window (spec/10_state.md R31). -/
def regAt (offset : Nat) : Reg :=
  match offset with
  | 0x00 => .cmd
  | 0x04 => .status
  | 0x08 => .errinfo
  | 0x10 => .argOff
  | 0x14 => .argLen
  | 0x18 => .argSeedLo
  | 0x1C => .argSeedHi
  | 0x20 => .resultLo
  | 0x24 => .resultHi
  | _ => .reserved

/-- The offset of a register (spec/10_state.md R31); for the reserved ones, their lowest offset. -/
def Reg.offset : Reg → Nat
  | .cmd => 0x00
  | .status => 0x04
  | .errinfo => 0x08
  | .argOff => 0x10
  | .argLen => 0x14
  | .argSeedLo => 0x18
  | .argSeedHi => 0x1C
  | .resultLo => 0x20
  | .resultHi => 0x24
  | .reserved => 0x0C

end Sys2Proof.Machine
end

