-- ==== Sys2Proof/Syntax.lean ====
section
/-! DEFINITION. The nine commands of the block, one constructor per row of spec/opcode_table.json
(spec/30_encoding.md R73). A command has no operand field: all its operands come from the interface registers and SRC
when it executes (R76). -/

namespace Sys2Proof

/-- A command (spec/30_encoding.md R73). The suffix is the field W: 32 acts on C32, 64 on C64 (R72). -/
inductive Instr where
  /-- RESET32 (spec/41_reset_cmd.md R141) -/
  | reset32
  /-- UPDATE32 (spec/42_update.md R158) -/
  | update32
  /-- DIGEST32 (spec/43_digest.md R175) -/
  | digest32
  /-- HASH32 (spec/43_digest.md R180) -/
  | hash32
  /-- CLRERR (spec/41_reset_cmd.md R143) -/
  | clrerr
  /-- RESET64 (spec/41_reset_cmd.md R142) -/
  | reset64
  /-- UPDATE64 (spec/42_update.md R159) -/
  | update64
  /-- DIGEST64 (spec/43_digest.md R176) -/
  | digest64
  /-- HASH64 (spec/43_digest.md R181) -/
  | hash64
  deriving DecidableEq, Repr

end Sys2Proof
end

