-- ==== Sys2Proof/WellFormed.lean ====
section
/-! DEFINITION. Which terms the machine gives a meaning to. A command has no operand (spec/30_encoding.md R76), so every
command is well-formed; the checks that can fail are those on a host access (spec/20_memory.md R58, R59) and, in
Config.lean, on the parameters. -/

namespace Sys2Proof

/-- Every command is well-formed: it has no field that could be out of range (spec/30_encoding.md R76). -/
def Instr.wf : Instr → Bool
  | .reset32 => true
  | .update32 => true
  | .digest32 => true
  | .hash32 => true
  | .clrerr => true
  | .reset64 => true
  | .update64 => true
  | .digest64 => true
  | .hash64 => true

namespace Machine

/-- The accesses the block defines (spec/20_memory.md R58, R59). -/
def Access.wf (cfg : Config) : Access → Bool
  | .regRead offset bytes => regAccessDefined offset bytes
  | .regWrite offset bytes _ => regAccessDefined offset bytes
  | .srcRead addr => srcAccessDefined cfg addr
  | .srcWrite addr _ => srcAccessDefined cfg addr
  | .powerOn => true

end Machine

end Sys2Proof
end

