-- ==== Sys2Proof/Decode.lean ====
section
/-! DEFINITION. The decoder of a written command word, total on all 2^32 words and rejecting by name
(spec/30_encoding.md R71, R74, R75), and the encoder (R73). The decoder reads the fields OP, W and Z; the encoder is the
table of words. -/

namespace Sys2Proof

/-- Why a word is no command (spec/30_encoding.md R75). Whichever it is, the block raises ILLEGAL_COMMAND. -/
inductive DecodeReject where
  /-- `c[31:4] != 0` -/
  | zFieldNonzero
  /-- OP is 0, 6 or 7 -/
  | opIllegal
  /-- OP = 5 with W = 1: CLRERR has no W = 1 form -/
  | clrerrOnC64
  deriving DecidableEq, Repr

/-- Field OP, bits 2:0 (spec/30_encoding.md R71). -/
def opField (w : Word32) : BitVec 3 := w.extractLsb' 0 3

/-- Field W, bit 3 (spec/30_encoding.md R71). -/
def wField (w : Word32) : Bool := w.getLsbD 3

/-- Field Z, bits 31:4, must be zero (spec/30_encoding.md R71). -/
def zField (w : Word32) : BitVec 28 := w.extractLsb' 4 28

/-- The operation and context of a word whose Z is zero (spec/30_encoding.md R71, R72, R75). -/
def decodeOp (op : Nat) (w : Bool) : Except DecodeReject Instr :=
  match op, w with
  | 1, false => .ok .reset32
  | 1, true => .ok .reset64
  | 2, false => .ok .update32
  | 2, true => .ok .update64
  | 3, false => .ok .digest32
  | 3, true => .ok .digest64
  | 4, false => .ok .hash32
  | 4, true => .ok .hash64
  | 5, false => .ok .clrerr
  | 5, true => .error .clrerrOnC64
  | _, _ => .error .opIllegal

/-- The decoder (spec/30_encoding.md R74). -/
def decode (c : Word32) : Except DecodeReject Instr :=
  if zField c = 0#28 then decodeOp (opField c).toNat (wField c) else .error .zFieldNonzero

/-- Whether a word is a command (spec/30_encoding.md R74). -/
def legalWord (c : Word32) : Bool :=
  match decode c with
  | .ok _ => true
  | .error _ => false

/-- The word of a command (spec/30_encoding.md R73). -/
def encode : Instr → Word32
  | .reset32 => 0x00000001#32
  | .update32 => 0x00000002#32
  | .digest32 => 0x00000003#32
  | .hash32 => 0x00000004#32
  | .clrerr => 0x00000005#32
  | .reset64 => 0x00000009#32
  | .update64 => 0x0000000A#32
  | .digest64 => 0x0000000B#32
  | .hash64 => 0x0000000C#32

/-- The command word whose low `nbits` bits are `w` and whose other bits are 0. -/
def tableWord (nbits w : Nat) : Word32 := BitVec.ofNat 32 (w % 2 ^ nbits)

/-- What the decoder reads from an opcode-table row's bits. A command is one 32-bit word (spec/30_encoding.md R70), so
more than 32 bits are no command (log 10). -/
def decodeTableWord (nbits w : Nat) : Option Instr :=
  if nbits ≤ 32 then (decode (tableWord nbits w)).toOption else none

end Sys2Proof
end

