-- ==== Sys2Proof/Machine/State.lean ====
section
/-! DEFINITION. The state of the block as plain data (spec/10_state.md R41), the reasons a step can stop, and the state
after power-on reset (spec/70_reset_and_hazards.md R230). -/

namespace Sys2Proof.Machine

/-- Why the machine stops with a fault. -/
inductive Fault where
  /-- An UPDATE, a HASH or a host SRC read reaches a byte of SRC that the host has not written since power-on
  (spec/93_implementation_defined.md U1: a model makes the read fault; log 2). Raised by `execUpdate32`, `execUpdate64`,
  `execHash32`, `execHash64` and a host SRC read. Safe: hardware goes on with some byte. -/
  | unwrittenSrcByte (addr : Nat)
  deriving DecidableEq, Repr

/-- Why the machine refuses. -/
inductive Refusal where
  /-- A command that has no meaning yet. Raised by `exec` alone; no arm of this model uses it. Safe. -/
  | notModelled (mnemonic : String)
  /-- A host REG access that is not 32-bit, aligned and inside the window (spec/20_memory.md R58: "A model refuses such
  an access"; log 9). Raised by a host REG access. Safe. -/
  | undefinedRegAccess (offset bytes : Nat)
  /-- A host SRC access at or beyond SRC_BYTES (spec/20_memory.md R59: "a model refuses it"; log 9). Raised by a host SRC
  access. Safe. -/
  | srcAddressOutOfRange (addr : Nat)
  deriving DecidableEq, Repr

/-- SRC: the bytes the host has written since power-on, by rising address. An address that is not listed holds no value
(spec/70_reset_and_hazards.md R233; log 2). -/
abbrev Memory := List Host.Cell

/-- The four lanes of a context (spec/10_state.md R22). -/
structure Lanes (w : Nat) where
  v1 : BitVec w
  v2 : BitVec w
  v3 : BitVec w
  v4 : BitVec w
  deriving DecidableEq, Repr

/-- The fields both contexts have, for lane width `w` and stripe size `S` (spec/10_state.md R20, R21). PLEN is a `Fin S`:
4 bits with values 0..15 in C32, 5 bits with values 0..31 in C64 (R24). -/
structure Ctx (w S : Nat) where
  /-- SEED: the seed of the last reset (spec/10_state.md R28). -/
  seed : BitVec w
  /-- V1..V4 (spec/10_state.md R22). -/
  lanes : Lanes w
  /-- TOTAL_LEN: bytes passed to UPDATE since reset (spec/10_state.md R23). -/
  totalLen : Word64
  /-- PBUF[0..S-1] (spec/10_state.md R24, R25). -/
  pbuf : Vector Byte S
  /-- PLEN: valid bytes in PBUF (spec/10_state.md R24). -/
  plen : Fin S
  deriving DecidableEq, Repr

/-- C32: the common fields and the stored flag LARGE (spec/10_state.md R20, R26). -/
structure Ctx32 extends Ctx 32 16 where
  large : Bool
  deriving DecidableEq, Repr

/-- C64: the common fields; its large condition is not stored (spec/10_state.md R21, R27). -/
abbrev Ctx64 := Ctx 64 32

/-- STATUS: its stored fields (spec/10_state.md R33). The reserved bits are no state: they read 0. -/
structure Status where
  /-- bit 0: the block is in the error state -/
  err : Bool
  /-- bit 1: RESULT holds a digest -/
  rv : Bool
  /-- bit 2: the width of the digest in RESULT, 0 = XH32, 1 = XH64 -/
  rw : Bool
  /-- bits 7:4: the error cause code (spec/60_exceptions.md R200) -/
  cause : BitVec 4
  deriving DecidableEq, Repr

/-- The whole state (spec/10_state.md R41), then three fields of the model's own: the parameters, the host accesses still
to come and the values the host's reads have returned (logs 1, 3, 4). -/
structure State where
  c32 : Ctx32
  c64 : Ctx64
  status : Status
  /-- ERRINFO (spec/10_state.md R34) -/
  errinfo : Word32
  /-- ARG_OFF (spec/10_state.md R35) -/
  argOff : Word32
  /-- ARG_LEN (spec/10_state.md R36) -/
  argLen : Word32
  /-- ARG_SEED_LO (spec/10_state.md R37) -/
  argSeedLo : Word32
  /-- ARG_SEED_HI (spec/10_state.md R37) -/
  argSeedHi : Word32
  /-- RESULT = {RESULT_HI, RESULT_LO} (spec/10_state.md R38) -/
  result : Word64
  /-- SRC (spec/20_memory.md R51) -/
  src : Memory
  /-- the model's own: SRC_BYTES, which no step changes (spec/00_scope.md R10; log 1) -/
  cfg : Config
  /-- the model's own: the inputs still to come, oldest first (spec/70_reset_and_hazards.md R235; log 3) -/
  inputs : List Access
  /-- the model's own: what the host's reads returned, oldest first (spec/70_reset_and_hazards.md R235; log 4) -/
  shown : List Shown
  deriving DecidableEq, Repr

/-- The state after power-on reset, at the values spec/10_state.md R20, R21, R31 and spec/70_reset_and_hazards.md R230
list: both contexts as `reset(0)`, every register 0, no byte of SRC written. -/
def State.reset : State where
  c32 :=
    { seed := 0#32
      lanes := { v1 := 0x24234428#32, v2 := 0x85EBCA77#32, v3 := 0x00000000#32, v4 := 0x61C8864F#32 }
      totalLen := 0#64
      pbuf := Vector.replicate 16 0x00#8
      plen := 0
      large := false }
  c64 :=
    { seed := 0#64
      lanes := { v1 := 0x60EA27EEADC0B5D6#64, v2 := 0xC2B2AE3D27D4EB4F#64, v3 := 0x0000000000000000#64,
                 v4 := 0x61C8864E7A143579#64 }
      totalLen := 0#64
      pbuf := Vector.replicate 32 0x00#8
      plen := 0 }
  status := { err := false, rv := false, rw := false, cause := 0#4 }
  errinfo := 0#32
  argOff := 0#32
  argLen := 0#32
  argSeedLo := 0#32
  argSeedHi := 0#32
  result := 0#64
  src := []
  cfg := Config.atReset
  inputs := []
  shown := []

end Sys2Proof.Machine
end

