-- ==== Sys2Proof/Machine/Flags.lean ====
section
/-! DEFINITION. Every flag the block computes: the fields of STATUS (spec/10_state.md R33) and the large condition of each
context (spec/10_state.md R26, R27; spec/42_update.md R150). -/

namespace Sys2Proof.Machine

/-- The two errors (spec/60_exceptions.md R200). -/
inductive Cause where
  | illegalCommand
  | boundsViolation
  deriving DecidableEq, Repr

/-- The CAUSE code of an error (spec/60_exceptions.md R200). -/
def Cause.code : Cause → BitVec 4
  | .illegalCommand => 1#4
  | .boundsViolation => 2#4

/-- STATUS as the host reads it: bits 3 and 31:8 read 0 (spec/10_state.md R33). -/
def Status.word (st : Status) : Word32 :=
  0#24 ++ st.cause ++ 0#1 ++ BitVec.ofBool st.rw ++ BitVec.ofBool st.rv ++ BitVec.ofBool st.err

/-- STATUS after an error: ERR and CAUSE are written, RV and RW kept (spec/60_exceptions.md R205). -/
def Status.raised (st : Status) (c : Cause) : Status :=
  { st with err := true, cause := c.code }

/-- STATUS after CLRERR: ERR and CAUSE are cleared, RV and RW kept (spec/41_reset_cmd.md R143). -/
def Status.cleared (st : Status) : Status :=
  { st with err := false, cause := 0#4 }

/-- STATUS after a digest is written: RV is set and RW tells its width (spec/43_digest.md R175, R176, R180, R181). -/
def Status.digestWritten (st : Status) (wide : Bool) : Status :=
  { st with rv := true, rw := wide }

/-- LARGE after the length step: set when the TOTAL_LEN just written is at least 16, and never cleared here
(spec/42_update.md R150, the one-clause form of spec/90_conflicts.md C2). -/
def largeAfter (large : Bool) (totalLen : Word64) : Bool :=
  large || decide (16 ≤ totalLen.toNat)

/-- The large condition of C64, computed when it is read (spec/10_state.md R27; after a wrap of TOTAL_LEN it is taken on
the wrapped value, spec/93_implementation_defined.md U3). -/
def large64 (c : Ctx64) : Bool :=
  decide (32 ≤ c.totalLen.toNat)

/-- The large condition of C32: the stored flag (spec/10_state.md R27). -/
def large32 (c : Ctx32) : Bool :=
  c.large

end Sys2Proof.Machine
end

