-- ==== Sys2Proof/Machine/Ops.lean ====
section
/-! DEFINITION. The named operations over SRC, the contexts and the registers, entering the error state and leaving it
(spec/60_exceptions.md R205, R207), and the error lock (R206). -/

namespace Sys2Proof.Machine

/-- What one step or one command answers. -/
abbrev Answer := Host.Outcome State Fault Refusal

/-! ### SRC -/

/-- The canonical form of SRC: addresses strictly rising. An unlisted address holds no value, so every listed value may
stand. -/
def Memory.wf : Memory → Bool
  | [] => true
  | cell :: rest => rest.all (fun later => decide (cell.1 < later.1)) && Memory.wf rest

/-- The byte at an address, or nothing where the host has not written since power-on (spec/20_memory.md R59, R63). -/
def Memory.read : Memory → Nat → Option Byte
  | [], _ => none
  | cell :: rest, addr => if cell.1 = addr then some cell.2 else Memory.read rest addr

/-- `SRC[a] <- v` (spec/20_memory.md R59), in canonical form. -/
def Memory.write : Memory → Nat → Byte → Memory
  | [], addr, value => [(addr, value)]
  | cell :: rest, addr, value =>
    if addr < cell.1 then (addr, value) :: cell :: rest
    else if addr = cell.1 then (addr, value) :: rest
    else cell :: Memory.write rest addr value

/-- `MemRead(a, n)`: the `n` bytes from `a` in address order, without wrap (spec/20_memory.md R52), or the first of their
addresses that is unwritten (log 2). -/
def Memory.readRange (m : Memory) : Nat → Nat → Except Nat (List Byte)
  | _, 0 => .ok []
  | addr, n + 1 =>
    match Memory.read m addr with
    | none => .error addr
    | some b =>
      match Memory.readRange m (addr + 1) n with
      | .ok bytes => .ok (b :: bytes)
      | .error unwritten => .error unwritten

/-! ### State updates -/

def State.setC32 (s : State) (c : Ctx32) : State := { s with c32 := c }

def State.setC64 (s : State) (c : Ctx64) : State := { s with c64 := c }

def State.setArgOff (s : State) (v : Word32) : State := { s with argOff := v }

def State.setArgLen (s : State) (v : Word32) : State := { s with argLen := v }

def State.setArgSeedLo (s : State) (v : Word32) : State := { s with argSeedLo := v }

def State.setArgSeedHi (s : State) (v : Word32) : State := { s with argSeedHi := v }

def State.setSrc (s : State) (m : Memory) : State := { s with src := m }

def State.setInputs (s : State) (l : List Access) : State := { s with inputs := l }

/-- Records what a host read returned (spec/70_reset_and_hazards.md R235; log 4). -/
def State.showValue (s : State) (v : Shown) : State := { s with shown := s.shown ++ [v] }

/-- RESULT, RV and RW as DIGEST and HASH write them; `wide` is RW (spec/43_digest.md R175, R176, R180, R181). -/
def State.setDigest (s : State) (wide : Bool) (d : Word64) : State :=
  { s with result := d, status := s.status.digestWritten wide }

/-! ### The error state -/

/-- `raise C(info)`: error entry (spec/60_exceptions.md R205). -/
def State.raise (s : State) (c : Cause) (info : Word32) : State :=
  { s with status := s.status.raised c, errinfo := info }

/-- Error return: what CLRERR does (spec/41_reset_cmd.md R143, spec/60_exceptions.md R207). -/
def State.clearError (s : State) : State :=
  { s with status := s.status.cleared, errinfo := 0x00000000#32 }

/-- The error lock in front of a command other than CLRERR: while ERR = 1 the write is discarded and changes nothing
(spec/60_exceptions.md R206). -/
def State.unlessLocked (s : State) (effect : Answer) : Answer :=
  if s.status.err then .next s else effect

/-- A written word that is no command: ILLEGAL_COMMAND, unless the error lock discards it (spec/60_exceptions.md R201,
R204, R206). -/
def State.illegalCommand (s : State) (c : Word32) : Answer :=
  s.unlessLocked (.next (s.raise .illegalCommand c))

end Sys2Proof.Machine
end

