-- ==== Sys2Proof/Machine/Operands.lean ====
section
/-! DEFINITION. Every operand form: little-endian words (spec/20_memory.md R53 to R55), the seed of each width, and the
input chunk with its bounds test (spec/30_encoding.md R76, R77; spec/60_exceptions.md R202). -/

namespace Sys2Proof.Machine

/-- The number a byte sequence stands for, its first byte the least significant (spec/20_memory.md R53). -/
def leNat : List Byte → Nat
  | [] => 0
  | b :: rest => b.toNat + 256 * leNat rest

/-- `LE_n` as a word of `w = 8n` bits (spec/20_memory.md R53). -/
def le (w : Nat) (bytes : List Byte) : BitVec w := BitVec.ofNat w (leNat bytes)

/-- The seed operand of RESET32 and HASH32: ARG_SEED_LO (spec/30_encoding.md R76). -/
def State.seed32 (s : State) : Word32 := s.argSeedLo

/-- The seed operand of RESET64 and HASH64: {ARG_SEED_HI, ARG_SEED_LO} (spec/30_encoding.md R76). -/
def State.seed64 (s : State) : Word64 := s.argSeedHi ++ s.argSeedLo

/-- `end = zext_33(off) + zext_33(n)` (spec/30_encoding.md R77). -/
def State.chunkEnd (s : State) : BitVec 33 := s.argOff.setWidth 33 + s.argLen.setWidth 33

/-- Whether the input chunk lies inside SRC (spec/30_encoding.md R77, spec/60_exceptions.md R202). -/
def State.chunkInBounds (s : State) : Bool := decide (s.chunkEnd.toNat ≤ s.cfg.srcBytes)

/-- `MemRead(ARG_OFF, ARG_LEN)` (spec/30_encoding.md R76). -/
def State.chunk (s : State) : Except Nat (List Byte) :=
  s.src.readRange s.argOff.toNat s.argLen.toNat

/-- The input chunk of command `i`: BOUNDS_VIOLATION before any byte is read and before anything is written
(spec/60_exceptions.md R202), a fault where a byte of it is unwritten (log 2), else the effect on its bytes. -/
def State.withChunk (s : State) (i : Instr) (effect : List Byte → Answer) : Answer :=
  if s.chunkInBounds then
    match s.chunk with
    | .ok data => effect data
    | .error addr => .fault (.unwrittenSrcByte addr)
  else .next (s.raise .boundsViolation (encode i))

end Sys2Proof.Machine
end

