-- ==== Sys2Proof/Machine/Datapath.lean ====
section
/-! DEFINITION. The mixing datapath: the pure, total functions the commands are built from (spec/40_datapath.md). All
arithmetic is unsigned and wraps (R115); nothing here reads or writes state (R116). -/

namespace Sys2Proof.Machine

/-- The width-specific constants (spec/40_datapath.md R100, R101; spec/00_scope.md R9). -/
structure Engine (w : Nat) where
  /-- lane bytes L = w/8 -/
  laneBytes : Nat
  prime1 : BitVec w
  prime2 : BitVec w
  prime3 : BitVec w
  prime4 : BitVec w
  prime5 : BitVec w
  /-- ROUND_ROTATE -/
  roundRotate : Nat
  /-- avalanche shifts a1, a2, a3 -/
  shift1 : Nat
  shift2 : Nat
  shift3 : Nat

/-- XH32 (spec/40_datapath.md R100; log 7). -/
def xh32 : Engine 32 where
  laneBytes := 4
  prime1 := 0x9E3779B1#32
  prime2 := 0x85EBCA77#32
  prime3 := 0xC2B2AE3D#32
  prime4 := 0x27D4EB2F#32
  prime5 := 0x165667B1#32
  roundRotate := 13
  shift1 := 15
  shift2 := 13
  shift3 := 16

/-- XH64 (spec/40_datapath.md R101; log 7). -/
def xh64 : Engine 64 where
  laneBytes := 8
  prime1 := 0x9E3779B185EBCA87#64
  prime2 := 0xC2B2AE3D27D4EB4F#64
  prime3 := 0x165667B19E3779F9#64
  prime4 := 0x85EBCA77C2B2AE63#64
  prime5 := 0x27D4EB2F165667C5#64
  roundRotate := 31
  shift1 := 33
  shift2 := 29
  shift3 := 32

/-- `rotl_w(x, r)` (spec/40_datapath.md R102). -/
def rotl {w : Nat} (x : BitVec w) (r : Nat) : BitVec w := (x <<< r) ||| (x >>> (w - r))

/-- `round_w(acc, input)`, the round unit (spec/40_datapath.md R103). -/
def round {w : Nat} (e : Engine w) (acc input : BitVec w) : BitVec w :=
  rotl (acc + input * e.prime2) e.roundRotate * e.prime1

/-- `merge_round(acc, lane)`, the merge unit of XH64, in the canonical form (spec/40_datapath.md R104,
spec/90_conflicts.md C1). -/
def mergeRound (acc lane : Word64) : Word64 :=
  (acc ^^^ round xh64 0#64 lane) * xh64.prime1 + xh64.prime4

/-- Lane word `word_k` of a stripe, for k = 1, 2, 3, 4 (spec/20_memory.md R54). -/
def laneWord {w : Nat} (e : Engine w) (k : Nat) (stripe : List Byte) : BitVec w :=
  le w ((stripe.drop ((k - 1) * e.laneBytes)).take e.laneBytes)

/-- `StripeMix`, the 4-lane parallel mixer (spec/40_datapath.md R105). -/
def stripeMix {w : Nat} (e : Engine w) (v : Lanes w) (stripe : List Byte) : Lanes w where
  v1 := round e v.v1 (laneWord e 1 stripe)
  v2 := round e v.v2 (laneWord e 2 stripe)
  v3 := round e v.v3 (laneWord e 3 stripe)
  v4 := round e v.v4 (laneWord e 4 stripe)

/-- `Converge_w` (spec/40_datapath.md R106). -/
def converge {w : Nat} (v : Lanes w) : BitVec w :=
  rotl v.v1 1 + rotl v.v2 7 + rotl v.v3 12 + rotl v.v4 18

/-- `ConvergeMerge_64`: the four merges in the order V1, V2, V3, V4 (spec/40_datapath.md R107). -/
def convergeMerge64 (v : Lanes 64) : Word64 :=
  mergeRound (mergeRound (mergeRound (mergeRound (converge v) v.v1) v.v2) v.v3) v.v4

/-- `Fold4_32` (spec/40_datapath.md R108). -/
def fold4x32 (h word : Word32) : Word32 := rotl (h + word * xh32.prime3) 17 * xh32.prime4

/-- `Fold1_32`: the byte is zero-extended (spec/40_datapath.md R109). -/
def fold1x32 (h : Word32) (b : Byte) : Word32 := rotl (h + b.setWidth 32 * xh32.prime5) 11 * xh32.prime1

/-- `Fold8_64` (spec/40_datapath.md R110). -/
def fold8x64 (h word : Word64) : Word64 := rotl (h ^^^ round xh64 0#64 word) 27 * xh64.prime1 + xh64.prime4

/-- `Fold4_64`: the word is zero-extended (spec/40_datapath.md R111). -/
def fold4x64 (h : Word64) (word : Word32) : Word64 :=
  rotl (h ^^^ (word.setWidth 64 * xh64.prime1)) 23 * xh64.prime2 + xh64.prime3

/-- `Fold1_64`: the byte is zero-extended (spec/40_datapath.md R112). -/
def fold1x64 (h : Word64) (b : Byte) : Word64 := rotl (h ^^^ (b.setWidth 64 * xh64.prime5)) 11 * xh64.prime1

/-- One xor with a right shift of itself. -/
def xorShift {w : Nat} (h : BitVec w) (a : Nat) : BitVec w := h ^^^ (h >>> a)

/-- `Avalanche_w`: three xor-shifts with two multiplies between them (spec/40_datapath.md R113, R114;
spec/90_conflicts.md C4). -/
def avalanche {w : Nat} (e : Engine w) (h : BitVec w) : BitVec w :=
  xorShift (xorShift (xorShift h e.shift1 * e.prime2) e.shift2 * e.prime3) e.shift3

/-- Folds `k` consecutive units of `size` bytes each into `acc`, in stream order: the loop over stripes
(spec/42_update.md R155) and the loops over tail units (spec/43_digest.md R173). -/
def foldUnits {α : Type} (f : α → List Byte → α) (size : Nat) : Nat → α → List Byte → α
  | 0, acc, _ => acc
  | k + 1, acc, bytes => foldUnits f size k (f acc (bytes.take size)) (bytes.drop size)

end Sys2Proof.Machine
end

