-- ==== Sys2Proof/Machine/Stream.lean ====
section
/-! DEFINITION. What a command does to its context: `ContextReset` (spec/41_reset_cmd.md R140), `UpdateCore`
(spec/42_update.md R150 to R156) and `DigestCore` (spec/43_digest.md R170 to R174). One text for both widths
(spec/00_scope.md R14), with the engine's constants as an argument. -/

namespace Sys2Proof.Machine

/-! ### Reset -/

/-- The lanes after a reset (spec/41_reset_cmd.md R140). -/
def resetLanes {w : Nat} (e : Engine w) (seed : BitVec w) : Lanes w where
  v1 := seed + e.prime1 + e.prime2
  v2 := seed + e.prime2
  v3 := seed
  v4 := seed - e.prime1

/-- `ContextReset` on the fields both contexts have (spec/41_reset_cmd.md R140). -/
def Ctx.reset {w S : Nat} [NeZero S] (e : Engine w) (seed : BitVec w) : Ctx w S where
  seed := seed
  lanes := resetLanes e seed
  totalLen := 0#64
  pbuf := Vector.replicate S 0x00#8
  plen := 0

/-- `ContextReset(C32, seed)`: LARGE is cleared too (spec/41_reset_cmd.md R140). -/
def Ctx32.reset (seed : Word32) : Ctx32 where
  toCtx := Ctx.reset xh32 seed
  large := false

/-- `ContextReset(C64, seed)` (spec/41_reset_cmd.md R140). -/
def Ctx64.reset (seed : Word64) : Ctx64 := Ctx.reset xh64 seed

/-! ### The pending buffer -/

/-- PBUF[0..PLEN-1], the only bytes of PBUF that are ever read (spec/10_state.md R24, R25). -/
def Ctx.pending {w S : Nat} (c : Ctx w S) : List Byte := c.pbuf.toList.take c.plen.val

/-- `bytes` written over a buffer from index `start` on, as far as the buffer reaches. -/
def overlay (buf : List Byte) (start : Nat) (bytes : List Byte) : List Byte :=
  buf.take start ++ bytes.take (buf.length - start) ++ buf.drop (start + bytes.length)

theorem overlay_length (buf : List Byte) (start : Nat) (bytes : List Byte) :
    (overlay buf start bytes).length = buf.length := by
  simp only [overlay, List.length_append, List.length_take, List.length_drop]
  omega

/-- `PBUF[start + i] <- bytes[i]`; the other bytes stay as they were (spec/42_update.md R153, R154, R156). -/
def writePbuf {S : Nat} (buf : Vector Byte S) (start : Nat) (bytes : List Byte) : Vector Byte S :=
  ⟨⟨overlay buf.toList start bytes⟩, by simp [overlay_length]⟩

/-! ### Update -/

/-- The length step: `TOTAL_LEN <- TOTAL_LEN + zext_64(n)` (spec/42_update.md R150). -/
def Ctx.addLength {w S : Nat} (c : Ctx w S) (n : Nat) : Ctx w S :=
  { c with totalLen := c.totalLen + BitVec.ofNat 64 n }

/-- `StripeStep(ctx, s)`: writes only the four lanes (spec/42_update.md R151). -/
def Ctx.stripeStep {w S : Nat} (e : Engine w) (c : Ctx w S) (stripe : List Byte) : Ctx w S :=
  { c with lanes := stripeMix e c.lanes stripe }

/-- The input cursor after step 3: `S - PLEN` bytes when a pending stripe was completed, else 0
(spec/42_update.md R154). -/
def Ctx.headLength {w S : Nat} (c : Ctx w S) : Nat :=
  if c.plen.val = 0 then 0 else S - c.plen.val

/-- Step 3, completing the pending stripe with the head of the input; nothing when PLEN = 0. PLEN itself is rewritten by
step 5 (spec/42_update.md R154). -/
def Ctx.completePending {w S : Nat} (e : Engine w) (c : Ctx w S) (data : List Byte) : Ctx w S :=
  if c.plen.val = 0 then c
  else
    let filled := writePbuf c.pbuf c.plen.val (data.take c.headLength)
    Ctx.stripeStep e { c with pbuf := filled } filled.toList

/-- Step 4: the next `floor((n - p0) / S)` whole stripes straight from the input (spec/42_update.md R155). -/
def Ctx.directStripes {w S : Nat} (e : Engine w) (c : Ctx w S) (rest : List Byte) : Ctx w S :=
  { c with lanes := foldUnits (stripeMix e) S (rest.length / S) c.lanes rest }

/-- Step 5: the last `r = n - p` bytes, `r < S`, become PBUF[0..r-1] and PLEN (spec/42_update.md R156). -/
def Ctx.keepTail {w S : Nat} (c : Ctx w S) (rest : List Byte) : Ctx w S :=
  { c with
    pbuf := writePbuf c.pbuf 0 (rest.drop (rest.length / S * S))
    plen := ⟨rest.length % S, Nat.mod_lt _ (Nat.zero_lt_of_lt c.plen.isLt)⟩ }

/-- Steps 2 to 5 of `UpdateCore` on the chunk's bytes (spec/42_update.md R152). -/
def Ctx.absorb {w S : Nat} (e : Engine w) (c : Ctx w S) (data : List Byte) : Ctx w S :=
  if fits : c.plen.val + data.length < S then
    { c with pbuf := writePbuf c.pbuf c.plen.val data, plen := ⟨c.plen.val + data.length, fits⟩ }
  else
    let rest := data.drop c.headLength
    ((c.completePending e data).directStripes e rest).keepTail rest

/-- `UpdateCore` on the fields both contexts have (spec/42_update.md R152). -/
def Ctx.update {w S : Nat} (e : Engine w) (c : Ctx w S) (data : List Byte) : Ctx w S :=
  (c.addLength data.length).absorb e data

/-- `UpdateCore(C32, ...)`: LARGE is updated from the TOTAL_LEN just written (spec/42_update.md R150, R152). -/
def Ctx32.update (c : Ctx32) (data : List Byte) : Ctx32 where
  toCtx := c.toCtx.update xh32 data
  large := largeAfter c.large (c.toCtx.addLength data.length).totalLen

/-- `UpdateCore(C64, ...)` (spec/42_update.md R152). -/
def Ctx64.update (c : Ctx64) (data : List Byte) : Ctx64 := Ctx.update xh64 c data

/-! ### Digest -/

/-- Step 3 for XH32: `floor(PLEN / 4)` 4-byte folds, then `PLEN mod 4` 1-byte folds (spec/43_digest.md R173). -/
def foldTail32 (h : Word32) (tail : List Byte) : Word32 :=
  let words := tail.length / 4
  let h4 := foldUnits (fun acc unit => fold4x32 acc (le 32 unit)) 4 words h tail
  foldUnits (fun acc unit => fold1x32 acc (le 8 unit)) 1 (tail.length % 4) h4 (tail.drop (4 * words))

/-- Step 3 for XH64: `floor(PLEN / 8)` 8-byte folds, one 4-byte fold if `PLEN mod 8 >= 4`, then `PLEN mod 4` 1-byte folds
(spec/43_digest.md R173). -/
def foldTail64 (h : Word64) (tail : List Byte) : Word64 :=
  let longs := tail.length / 8
  let words := if 4 ≤ tail.length % 8 then 1 else 0
  let h8 := foldUnits (fun acc unit => fold8x64 acc (le 64 unit)) 8 longs h tail
  let h4 := foldUnits (fun acc unit => fold4x64 acc (le 32 unit)) 4 words h8 (tail.drop (8 * longs))
  foldUnits (fun acc unit => fold1x64 acc (le 8 unit)) 1 (tail.length % 4) h4 (tail.drop (8 * longs + 4 * words))

/-- `DigestCore(C32)` (spec/43_digest.md R170 to R174). -/
def digestCore32 (c : Ctx32) : Word32 :=
  let h1 := if large32 c then converge c.lanes else c.lanes.v3 + xh32.prime5
  let h2 := h1 + c.totalLen.setWidth 32
  avalanche xh32 (foldTail32 h2 c.pending)

/-- `DigestCore(C64)` (spec/43_digest.md R170 to R174). -/
def digestCore64 (c : Ctx64) : Word64 :=
  let h1 := if large64 c then convergeMerge64 c.lanes else c.lanes.v3 + xh64.prime5
  let h2 := h1 + c.totalLen
  avalanche xh64 (foldTail64 h2 c.pending)

end Sys2Proof.Machine
end

