-- ==== Sys2Proof/Machine/DigestCmd.lean ====
section
/-! DEFINITION. DIGEST32, DIGEST64, HASH32 and HASH64 (spec/43_digest.md R175, R176, R180, R181). -/

namespace Sys2Proof.Machine

/-- RESULT, RV and RW from the context C32 (spec/43_digest.md R175). -/
def State.digestC32 (s : State) : State := s.setDigest false ((digestCore32 s.c32).setWidth 64)

/-- RESULT, RV and RW from the context C64 (spec/43_digest.md R176). -/
def State.digestC64 (s : State) : State := s.setDigest true (digestCore64 s.c64)

/-- DIGEST32 (spec/43_digest.md R175). -/
def execDigest32 (s : State) : Answer := s.unlessLocked (.next s.digestC32)

/-- DIGEST64 (spec/43_digest.md R176). -/
def execDigest64 (s : State) : Answer := s.unlessLocked (.next s.digestC64)

/-- HASH32: the bounds check first, then reset, update and digest (spec/43_digest.md R180). -/
def execHash32 (s : State) : Answer :=
  s.unlessLocked (s.withChunk .hash32 fun data =>
    .next (s.setC32 ((Ctx32.reset s.seed32).update data)).digestC32)

/-- HASH64: the bounds check first, then reset, update and digest (spec/43_digest.md R181). -/
def execHash64 (s : State) : Answer :=
  s.unlessLocked (s.withChunk .hash64 fun data =>
    .next (s.setC64 (Ctx64.update (Ctx64.reset s.seed64) data)).digestC64)

end Sys2Proof.Machine
end

