-- ==== Sys2Proof/Machine/ResetCmd.lean ====
section
/-! DEFINITION. RESET32, RESET64 and CLRERR (spec/41_reset_cmd.md), and power-on reset, which uses the same
`ContextReset` (spec/70_reset_and_hazards.md R230). -/

namespace Sys2Proof.Machine

/-- RESET32 (spec/41_reset_cmd.md R141). -/
def execReset32 (s : State) : Answer :=
  s.unlessLocked (.next (s.setC32 (Ctx32.reset s.seed32)))

/-- RESET64 (spec/41_reset_cmd.md R142). -/
def execReset64 (s : State) : Answer :=
  s.unlessLocked (.next (s.setC64 (Ctx64.reset s.seed64)))

/-- CLRERR: the one command the error lock lets through (spec/41_reset_cmd.md R143, spec/60_exceptions.md R206). -/
def execClrerr (s : State) : Answer := .next s.clearError

/-- Power-on reset (spec/70_reset_and_hazards.md R230): SRC is unspecified afterwards, so no byte of it is written any
more. The model's own fields stay: the parameters, the inputs still to come and what was shown (log 5). -/
def State.powerOn (s : State) : State where
  c32 := Ctx32.reset 0x00000000#32
  c64 := Ctx64.reset 0x0000000000000000#64
  status := { err := false, rv := false, rw := false, cause := 0#4 }
  errinfo := 0x00000000#32
  argOff := 0x00000000#32
  argLen := 0x00000000#32
  argSeedLo := 0x00000000#32
  argSeedHi := 0x00000000#32
  result := 0x0000000000000000#64
  src := []
  cfg := s.cfg
  inputs := s.inputs
  shown := s.shown

end Sys2Proof.Machine
end

