-- ==== Sys2Proof/Machine/UpdateCmd.lean ====
section
/-! DEFINITION. UPDATE32 and UPDATE64 (spec/42_update.md R158, R159). -/

namespace Sys2Proof.Machine

/-- UPDATE32 (spec/42_update.md R158). -/
def execUpdate32 (s : State) : Answer :=
  s.unlessLocked (s.withChunk .update32 fun data => .next (s.setC32 (s.c32.update data)))

/-- UPDATE64 (spec/42_update.md R159). -/
def execUpdate64 (s : State) : Answer :=
  s.unlessLocked (s.withChunk .update64 fun data => .next (s.setC64 (Ctx64.update s.c64 data)))

end Sys2Proof.Machine
end

