-- ==== Sys2Proof/Machine/Dispatch.lean ====
section
/-! DEFINITION. The meaning of each command, one arm per constructor of Instr (spec/30_encoding.md R73). -/

namespace Sys2Proof.Machine

def exec (i : Instr) (s : State) : Host.Outcome State Fault Refusal :=
  match i with
  | .reset32 => Sys2Proof.Machine.execReset32 s
  | .update32 => Sys2Proof.Machine.execUpdate32 s
  | .digest32 => Sys2Proof.Machine.execDigest32 s
  | .hash32 => Sys2Proof.Machine.execHash32 s
  | .clrerr => Sys2Proof.Machine.execClrerr s
  | .reset64 => Sys2Proof.Machine.execReset64 s
  | .update64 => Sys2Proof.Machine.execUpdate64 s
  | .digest64 => Sys2Proof.Machine.execDigest64 s
  | .hash64 => Sys2Proof.Machine.execHash64 s

end Sys2Proof.Machine
end

