-- ==== Sys2Proof/Machine/HostStep.lean ====
section
/-! DEFINITION. What one input does: the register window (spec/10_state.md R31 to R40), the host's SRC accesses
(spec/20_memory.md R59), a write of CMD (spec/60_exceptions.md R204) and power-on. -/

namespace Sys2Proof.Machine

/-- What a host read of a register returns (spec/10_state.md R31 to R39). No read has a side effect
(spec/20_memory.md R60). -/
def State.regValue (s : State) : Reg → Word32
  | .cmd => 0x00000000#32
  | .status => s.status.word
  | .errinfo => s.errinfo
  | .argOff => s.argOff
  | .argLen => s.argLen
  | .argSeedLo => s.argSeedLo
  | .argSeedHi => s.argSeedHi
  | .resultLo => s.result.extractLsb' 0 32
  | .resultHi => s.result.extractLsb' 32 32
  | .reserved => 0x00000000#32

/-- A write of CMD: the command whose encoding is `c` runs to completion, or `c` is illegal (spec/10_state.md R32,
spec/30_encoding.md R74). The error lock comes before decoding (spec/60_exceptions.md R204): it stands in front of every
effect, legal or not, so the order cannot be told apart (log 8). -/
def State.command (s : State) (c : Word32) : Answer :=
  match decode c with
  | .ok i => exec i s
  | .error _ => s.illegalCommand c

/-- A host write of a register: only CMD has an effect beyond the written register, and read-only and reserved ones
ignore it (spec/10_state.md R31 to R40, spec/20_memory.md R60). -/
def State.writeReg (s : State) (r : Reg) (v : Word32) : Answer :=
  match r with
  | .cmd => s.command v
  | .argOff => .next (s.setArgOff v)
  | .argLen => .next (s.setArgLen v)
  | .argSeedLo => .next (s.setArgSeedLo v)
  | .argSeedHi => .next (s.setArgSeedHi v)
  | .status => .next s
  | .errinfo => .next s
  | .resultLo => .next s
  | .resultHi => .next s
  | .reserved => .next s

/-- `HostSrcRead(a)` (spec/20_memory.md R59; a byte that was never written faults, log 2). -/
def State.hostSrcRead (s : State) (addr : Nat) : Answer :=
  match s.src.read addr with
  | some b => .next (s.showValue (.src b))
  | none => .fault (.unwrittenSrcByte addr)

/-- One input (spec/20_memory.md R58, R59, R69). -/
def State.perform (s : State) (a : Access) : Answer :=
  match a with
  | .regRead offset bytes =>
    if regAccessDefined offset bytes then .next (s.showValue (.reg (s.regValue (regAt offset))))
    else .refused (.undefinedRegAccess offset bytes)
  | .regWrite offset bytes v =>
    if regAccessDefined offset bytes then s.writeReg (regAt offset) v
    else .refused (.undefinedRegAccess offset bytes)
  | .srcRead addr =>
    if srcAccessDefined s.cfg addr then s.hostSrcRead addr else .refused (.srcAddressOutOfRange addr)
  | .srcWrite addr v =>
    if srcAccessDefined s.cfg addr then .next (s.setSrc (s.src.write addr v))
    else .refused (.srcAddressOutOfRange addr)
  | .powerOn => .next s.powerOn

/-- The next input and the state without it, or nothing when the host has ended (spec/70_reset_and_hazards.md R235). -/
def State.fetch (s : State) : Option (Access × State) :=
  match s.inputs with
  | [] => none
  | a :: later => some (a, s.setInputs later)

/-- The host write of a command word (spec/30_encoding.md R70). -/
def writeCmd (c : Word32) : Access := .regWrite 0x00 4 c

end Sys2Proof.Machine
end

