-- ==== Sys2Proof/Machine/Step.lean ====
section
/-! DEFINITION. One step of the block is one input, and a write of CMD is a step that includes the whole command
(spec/00_scope.md R8, spec/70_reset_and_hazards.md R240). -/

namespace Sys2Proof.Machine

/-- The step. With no input left the block is idle and nothing changes (spec/70_reset_and_hazards.md R231; log 3). -/
def step (s : State) : Host.Outcome State Fault Refusal :=
  match s.fetch with
  | none => .next s
  | some (a, rest) => rest.perform a

/-- `s` with the host about to write the command word to CMD: the block fetches no instructions, so this write is how a
command comes to run (spec/10_state.md R30, R32; log 3, log 10). -/
def State.withFetchWord (s : State) (nbits w : Nat) : State :=
  s.setInputs (writeCmd (tableWord nbits w) :: s.inputs)

end Sys2Proof.Machine
end

