-- ==== Sys2Proof/Safety.lean ====
section
/-! DEFINITION. The terms claims are stated in: which inputs run, the invariant of the machine, what it means for a context
to hold a stream, the digest of a stream, and the spec's pseudocode written out loop by loop. -/

namespace Sys2Proof.Machine

/-! ### Which inputs run -/

/-- The commands that read an input chunk (spec/30_encoding.md R73). -/
def readsChunk : Instr → Bool
  | .update32 => true
  | .update64 => true
  | .hash32 => true
  | .hash64 => true
  | .reset32 => false
  | .reset64 => false
  | .digest32 => false
  | .digest64 => false
  | .clrerr => false

/-- Every byte of `[addr, addr + n)` has been written since power-on (spec/70_reset_and_hazards.md R234). -/
def Memory.written (m : Memory) (addr n : Nat) : Prop :=
  ∀ k < n, (Memory.read m (addr + k)).isSome = true

/-- A command runs when it is discarded, or fails its bounds test, or finds its chunk written
(spec/70_reset_and_hazards.md R234; spec/93_implementation_defined.md U1). -/
def State.commandSafe (s : State) (i : Instr) : Prop :=
  readsChunk i = true → s.status.err = false → s.argOff.toNat + s.argLen.toNat ≤ s.cfg.srcBytes →
    s.src.written s.argOff.toNat s.argLen.toNat

/-- An input is safe when the block defines it and it reads no unwritten byte of SRC. -/
def State.inputSafe (s : State) (a : Access) : Prop :=
  a.wf s.cfg = true ∧
    match a with
    | .srcRead addr => (s.src.read addr).isSome = true
    | .regWrite offset _ c => offset = 0x00 → ∀ i, decode c = .ok i → s.commandSafe i
    | .regRead _ _ => True
    | .srcWrite _ _ => True
    | .powerOn => True

/-! ### The invariant -/

/-- SRC is in canonical form and has no byte at or beyond SRC_BYTES (spec/20_memory.md R51). -/
abbrev State.SrcOk (s : State) : Prop :=
  Memory.wf s.src = true ∧ ∀ cell ∈ s.src, cell.1 < s.cfg.srcBytes

/-- ERR = 0 exactly when CAUSE = 0, and then ERRINFO = 0 (spec/10_state.md R33, R34); an error's CAUSE is 1 or 2 and its
ERRINFO a word that raises it (spec/60_exceptions.md R200, spec/93_implementation_defined.md U8). -/
abbrev State.ErrorOk (s : State) : Prop :=
  if s.status.err = true then
    (s.status.cause = 1#4 ∧ legalWord s.errinfo = false) ∨
      (s.status.cause = 2#4 ∧ s.errinfo ∈ [0x2#32, 0xA#32, 0x4#32, 0xC#32])
  else s.status.cause = 0#4 ∧ s.errinfo = 0#32

/-- RESULT is 0 until RV is set, and RESULT_HI is 0 while RW says XH32 (spec/10_state.md R33, R38,
spec/93_implementation_defined.md U10). -/
abbrev State.ResultOk (s : State) : Prop :=
  (s.status.rv = false → s.status.rw = false ∧ s.result = 0#64) ∧
    (s.status.rw = false → s.result.extractLsb' 32 32 = 0#32)

/-- PLEN counts the bytes of the stream after its last whole stripe (spec/10_state.md R24, spec/42_update.md R157); it
holds across a wrap of TOTAL_LEN, since the stripe size divides 2^64. -/
abbrev Ctx.PlenOk {w S : Nat} (c : Ctx w S) : Prop := c.plen.val = c.totalLen.toNat % S

/-- While LARGE is clear, fewer than 16 bytes have come and the lanes are those of the reset, so V3 = SEED
(spec/10_state.md R26, R28). -/
abbrev Ctx32.SmallOk (c : Ctx32) : Prop :=
  c.large = false → c.totalLen.toNat < 16 ∧ c.lanes = resetLanes xh32 c.seed

/-- The invariant every step keeps. -/
abbrev State.Inv (s : State) : Prop :=
  s.cfg.wf = true ∧ s.SrcOk ∧ s.ErrorOk ∧ s.ResultOk ∧ s.c32.PlenOk ∧ s.c32.SmallOk ∧ s.c64.PlenOk

/-! ### Streams -/

/-- The rest of a byte sequence after its whole stripes of `S` bytes. -/
def streamRest (S : Nat) (bytes : List Byte) : List Byte := bytes.drop (bytes.length / S * S)

/-- The lanes after the whole stripes of a byte sequence, from the reset lanes (spec/42_update.md R157). -/
def streamLanes {w : Nat} (e : Engine w) (S : Nat) (seed : BitVec w) (bytes : List Byte) : Lanes w :=
  foldUnits (stripeMix e) S (bytes.length / S) (resetLanes e seed) bytes

/-- The common fields of a context that was reset with `seed` and has received `bytes` (spec/42_update.md R157): all but
the stale bytes of PBUF. -/
def Ctx.holdsStream {w S : Nat} (e : Engine w) (c : Ctx w S) (seed : BitVec w) (bytes : List Byte) : Prop :=
  c.seed = seed ∧ c.lanes = streamLanes e S seed bytes ∧ c.plen.val = bytes.length % S ∧
    c.pending = streamRest S bytes ∧ c.totalLen.toNat = bytes.length

/-- C32 holds a stream: the common fields, and LARGE = (T >= 16) (spec/42_update.md R157). -/
def Ctx32.holdsStream (c : Ctx32) (seed : Word32) (bytes : List Byte) : Prop :=
  Ctx.holdsStream xh32 c.toCtx seed bytes ∧ c.large = decide (16 ≤ bytes.length)

/-- C64 holds a stream (spec/42_update.md R157). -/
def Ctx64.holdsStream (c : Ctx64) (seed : Word64) (bytes : List Byte) : Prop :=
  Ctx.holdsStream xh64 c seed bytes

/-- `XH32(s, B)`, the digest of a whole byte sequence (spec/43_digest.md R178). -/
def streamDigest32 (seed : Word32) (bytes : List Byte) : Word32 :=
  let start :=
    if 16 ≤ bytes.length then converge (streamLanes xh32 16 seed bytes) else seed + xh32.prime5
  avalanche xh32 (foldTail32 (start + BitVec.ofNat 32 bytes.length) (streamRest 16 bytes))

/-- `XH64(s, B)`, the digest of a whole byte sequence (spec/43_digest.md R178). -/
def streamDigest64 (seed : Word64) (bytes : List Byte) : Word64 :=
  let start :=
    if 32 ≤ bytes.length then convergeMerge64 (streamLanes xh64 32 seed bytes) else seed + xh64.prime5
  avalanche xh64 (foldTail64 (start + BitVec.ofNat 64 bytes.length) (streamRest 32 bytes))

/-- Two contexts that differ at most in the stale bytes PBUF[PLEN..S-1] (spec/10_state.md R25). -/
def Ctx.sameButStale {w S : Nat} (c d : Ctx w S) : Prop :=
  c.seed = d.seed ∧ c.lanes = d.lanes ∧ c.totalLen = d.totalLen ∧ c.plen = d.plen ∧ c.pending = d.pending

/-! ### What a step leaves unchanged, and comparing two runs -/

/-- The registers other than STATUS, ERRINFO and RESULT, the model's own fields, and every byte of SRC are as before: no
command writes any of them (spec/10_state.md R35 to R37, spec/20_memory.md R51). -/
def State.operandsKept (s t : State) : Prop :=
  t.argOff = s.argOff ∧ t.argLen = s.argLen ∧ t.argSeedLo = s.argSeedLo ∧ t.argSeedHi = s.argSeedHi ∧
    t.cfg = s.cfg ∧ t.inputs = s.inputs ∧ t.shown = s.shown ∧
    ∀ addr, Memory.read t.src addr = Memory.read s.src addr

/-- An answer with its next state, if it has one, changed by `f`. -/
def mapNext (f : State → State) : Answer → Answer
  | .next s => .next (f s)
  | .fault r => .fault r
  | .refused r => .refused r

/-- The stream C32 holds after the next input, when it holds `held` (seed and bytes) before: what RESET32, UPDATE32,
HASH32 and power-on do to it, as operations on byte sequences (spec/42_update.md R157). -/
def State.nextStream32 (s : State) (held : Word32 × List Byte) : Word32 × List Byte :=
  match s.inputs with
  | .powerOn :: _ => (0#32, [])
  | .regWrite 0x00 4 c :: _ =>
    if s.status.err = true then held
    else if c = 0x1#32 then (s.argSeedLo, [])
    else
      match s.chunkInBounds, s.chunk with
      | true, .ok data =>
        if c = 0x2#32 then (held.1, held.2 ++ data) else if c = 0x4#32 then (s.argSeedLo, data) else held
      | _, _ => held
  | _ => held

/-- The same for C64 with RESET64, UPDATE64 and HASH64. -/
def State.nextStream64 (s : State) (held : Word64 × List Byte) : Word64 × List Byte :=
  match s.inputs with
  | .powerOn :: _ => (0#64, [])
  | .regWrite 0x00 4 c :: _ =>
    if s.status.err = true then held
    else if c = 0x9#32 then (s.argSeedHi ++ s.argSeedLo, [])
    else
      match s.chunkInBounds, s.chunk with
      | true, .ok data =>
        if c = 0xA#32 then (held.1, held.2 ++ data)
        else if c = 0xC#32 then (s.argSeedHi ++ s.argSeedLo, data)
        else held
      | _, _ => held
  | _ => held

/-! ### The pseudocode, loop by loop -/

/-- `for i in 0..n-1: PBUF[start + i] <- data[i]` (spec/42_update.md R152). -/
def copyLoop (buf : List Byte) (start : Nat) : List Byte → List Byte
  | [] => buf
  | b :: rest => copyLoop (buf.set start b) (start + 1) rest

/-- `while n - p >= S: StripeStep(ctx, data[p .. p+S-1]); p = p + S`, with `fuel` bounding the rounds
(spec/42_update.md R152). Answers the cursor and the lanes. -/
def stripeLoop {w : Nat} (e : Engine w) (S : Nat) (data : List Byte) : Nat → Nat → Lanes w → Nat × Lanes w
  | 0, p, lanes => (p, lanes)
  | fuel + 1, p, lanes =>
    if S ≤ data.length - p then stripeLoop e S data fuel (p + S) (stripeMix e lanes ((data.drop p).take S))
    else (p, lanes)

/-- The lanes, PBUF and PLEN that `UpdateCore` leaves, as its pseudocode computes them (spec/42_update.md R152). -/
def updatePseudo {w : Nat} (e : Engine w) (S : Nat) (lanes : Lanes w) (pbuf : List Byte) (plen : Nat)
    (data : List Byte) : Lanes w × List Byte × Nat :=
  if plen + data.length < S then (lanes, copyLoop pbuf plen data, plen + data.length)
  else
    let k := S - plen
    let pbuf3 := if 0 < plen then copyLoop pbuf plen (data.take k) else pbuf
    let lanes3 := if 0 < plen then stripeMix e lanes pbuf3 else lanes
    let p3 := if 0 < plen then k else 0
    let after := stripeLoop e S data data.length p3 lanes3
    let r := data.length - after.1
    (after.2, copyLoop pbuf3 0 (data.drop after.1), r)

/-- `while i + size <= PLEN: h = fold(h, PBUF[i..i+size-1]); i = i + size`, with `fuel` bounding the rounds
(spec/43_digest.md R170). Answers the cursor and h. -/
def tailLoop {α : Type} (f : α → List Byte → α) (size : Nat) (pbuf : List Byte) (plen : Nat) :
    Nat → Nat × α → Nat × α
  | 0, at_ => at_
  | fuel + 1, (i, h) =>
    if i + size ≤ plen then tailLoop f size pbuf plen fuel (i + size, f h ((pbuf.drop i).take size)) else (i, h)

/-- `DigestCore(C32)` as its pseudocode computes it, with the constants of spec/40_datapath.md R100
(spec/43_digest.md R170). -/
def digestPseudo32 (c : Ctx32) : Word32 :=
  let h1 :=
    if c.large = true then rotl c.lanes.v1 1 + rotl c.lanes.v2 7 + rotl c.lanes.v3 12 + rotl c.lanes.v4 18
    else c.lanes.v3 + 0x165667B1#32
  let h2 := h1 + c.totalLen.extractLsb' 0 32
  let words := tailLoop (fun h unit => fold4x32 h (le 32 unit)) 4 c.pbuf.toList c.plen.val 16 (0, h2)
  let bytes := tailLoop (fun h unit => fold1x32 h (le 8 unit)) 1 c.pbuf.toList c.plen.val 16 words
  avalanche xh32 bytes.2

/-- `DigestCore(C64)` as its pseudocode computes it, with the constants of spec/40_datapath.md R101
(spec/43_digest.md R170). -/
def digestPseudo64 (c : Ctx64) : Word64 :=
  let h1 :=
    if 32 ≤ c.totalLen.toNat then
      mergeRound (mergeRound (mergeRound (mergeRound
        (rotl c.lanes.v1 1 + rotl c.lanes.v2 7 + rotl c.lanes.v3 12 + rotl c.lanes.v4 18)
        c.lanes.v1) c.lanes.v2) c.lanes.v3) c.lanes.v4
    else c.lanes.v3 + 0x27D4EB2F165667C5#64
  let h2 := h1 + c.totalLen
  let longs := tailLoop (fun h unit => fold8x64 h (le 64 unit)) 8 c.pbuf.toList c.plen.val 32 (0, h2)
  let words :=
    if longs.1 + 4 ≤ c.plen.val then
      (longs.1 + 4, fold4x64 longs.2 (le 32 ((c.pbuf.toList.drop longs.1).take 4)))
    else longs
  let bytes := tailLoop (fun h unit => fold1x64 h (le 8 unit)) 1 c.pbuf.toList c.plen.val 32 words
  avalanche xh64 bytes.2

end Sys2Proof.Machine
end

