-- ==== Sys2Proof/Certificates/Slice0/Obligations.lean ====
section
/-! DEFINITION. What the model's provers are asked to prove, one definition per statement; OBLIGATIONS.json lists them with
the rules of spec/ they come from. -/

open Sys2Proof Sys2Proof.Machine

/-! ### Command words and their order of checks -/

/-- spec/30_encoding.md R74 and spec/60_exceptions.md R201: a word is a command exactly when it is one of nine, equivalently
by its fields; a command word executes its command and any other raises ILLEGAL_COMMAND, unless the lock discards it. -/
def Obligations.CommandWordsAreExactlyTheNine : Prop :=
  ∀ c : Word32,
    (legalWord c = true ↔
      c ∈ [0x1#32, 0x2#32, 0x3#32, 0x4#32, 0x5#32, 0x9#32, 0xA#32, 0xB#32, 0xC#32]) ∧
    (legalWord c = true ↔
      (c.extractLsb' 4 28 = 0#28 ∧ c.extractLsb' 0 3 ∈ [1#3, 2#3, 3#3, 4#3]) ∨ c = 0x00000005#32) ∧
    ∀ (s : State) (later : List Access), s.inputs = writeCmd c :: later →
      (∀ i, decode c = .ok i → c = encode i ∧ step s = exec i { s with inputs := later }) ∧
      (legalWord c = false → s.status.err = true → step s = .next { s with inputs := later }) ∧
      (legalWord c = false → s.status.err = false →
        step s = .next { s with
          inputs := later
          status := { err := true, rv := s.status.rv, rw := s.status.rw, cause := 1#4 }
          errinfo := c })

/-- spec/30_encoding.md R73: decoding a command's word gives the command back, and no other word decodes to it. -/
def Obligations.DecodeInvertsEncode : Prop :=
  ∀ (i : Instr) (c : Word32), i.wf = true → (decode c = .ok i ↔ c = encode i)

/-- Words written out from the fields of spec/30_encoding.md R71 (Z, W, OP) decode to the commands they stand for, and the
words spec/30_encoding.md R75 names do not decode. -/
def Obligations.WrittenOutWordsDecode : Prop :=
  decode (0#28 ++ 0#1 ++ 1#3) = .ok .reset32 ∧ decode (0#28 ++ 1#1 ++ 1#3) = .ok .reset64 ∧
  decode (0#28 ++ 0#1 ++ 2#3) = .ok .update32 ∧ decode (0#28 ++ 1#1 ++ 2#3) = .ok .update64 ∧
  decode (0#28 ++ 0#1 ++ 3#3) = .ok .digest32 ∧ decode (0#28 ++ 1#1 ++ 3#3) = .ok .digest64 ∧
  decode (0#28 ++ 0#1 ++ 4#3) = .ok .hash32 ∧ decode (0#28 ++ 1#1 ++ 4#3) = .ok .hash64 ∧
  decode (0#28 ++ 0#1 ++ 5#3) = .ok .clrerr ∧
  decode 0x0000000D#32 = .error .clrerrOnC64 ∧
  decode 0x00000000#32 = .error .opIllegal ∧ decode 0x00000008#32 = .error .opIllegal ∧
  decode 0x00000006#32 = .error .opIllegal ∧ decode 0x00000007#32 = .error .opIllegal ∧
  decode 0x0000000E#32 = .error .opIllegal ∧ decode 0x0000000F#32 = .error .opIllegal ∧
  decode 0x00000010#32 = .error .zFieldNonzero ∧ decode 0x80000001#32 = .error .zFieldNonzero

/-- A step on a write of CMD whose word decodes runs the command on the state without that input; in particular on the word
`withFetchWord` places. (spec/10_state.md R32; the inputs are the model's own field, log 3.) -/
def Obligations.StepRunsDecodedCommand : Prop :=
  (∀ (s : State) (c : Word32) (i : Instr) (later : List Access),
    s.inputs = writeCmd c :: later → decode c = .ok i → i.wf = true →
    step s = exec i { s with inputs := later }) ∧
  ∀ (s : State) (i : Instr), i.wf = true → step (s.withFetchWord 32 (encode i).toNat) = exec i s

/-- spec/60_exceptions.md R204: the checks of one CMD write, in order, the first that applies deciding the outcome. -/
def Obligations.ChecksApplyInOrder : Prop :=
  ∀ (s : State) (c : Word32) (later : List Access), s.inputs = writeCmd c :: later →
    if s.status.err = true ∧ c ≠ 0x00000005#32 then step s = .next { s with inputs := later }
    else if legalWord c = false then
      step s = .next { s with
        inputs := later
        status := { err := true, rv := s.status.rv, rw := s.status.rw, cause := 1#4 }
        errinfo := c }
    else if c ∈ [0x2#32, 0xA#32, 0x4#32, 0xC#32] ∧ s.cfg.srcBytes < s.argOff.toNat + s.argLen.toNat then
      step s = .next { s with
        inputs := later
        status := { err := true, rv := s.status.rv, rw := s.status.rw, cause := 2#4 }
        errinfo := c }
    else ∃ i, decode c = .ok i ∧ step s = exec i { s with inputs := later } ∧
      ∀ t, step s = .next t → t.status.err = false

/-- spec/60_exceptions.md R206: what the error lock discards, and what is still performed. A host read of a byte of SRC is
here for a byte that holds a value; of one that does not, see `UnwrittenByteFaults` (log 2). -/
def Obligations.ErrorLockDiscardsCommands : Prop :=
  ∀ (s : State) (a : Access) (later : List Access), s.inputs = a :: later → s.status.err = true →
    (∀ c, a = writeCmd c → c ≠ 0x00000005#32 → step s = .next { s with inputs := later }) ∧
    (∀ v, a = .regWrite 0x10 4 v → step s = .next { s with inputs := later, argOff := v }) ∧
    (∀ v, a = .regWrite 0x14 4 v → step s = .next { s with inputs := later, argLen := v }) ∧
    (∀ v, a = .regWrite 0x18 4 v → step s = .next { s with inputs := later, argSeedLo := v }) ∧
    (∀ v, a = .regWrite 0x1C 4 v → step s = .next { s with inputs := later, argSeedHi := v }) ∧
    (∀ addr v, a = .srcWrite addr v → addr < s.cfg.srcBytes →
      step s = .next { s with inputs := later, src := s.src.write addr v }) ∧
    (∀ addr v, a = .srcRead addr → addr < s.cfg.srcBytes → s.src.read addr = some v →
      step s = .next { s with inputs := later, shown := s.shown ++ [.src v] }) ∧
    (∀ offset, a = .regRead offset 4 → offset % 4 = 0 → offset < 0x40 →
      step s = .next { s with inputs := later, shown := s.shown ++ [.reg (s.regValue (regAt offset))] })

/-- While ERR = 1 no second error is raised: ERR, CAUSE and ERRINFO are kept until CLRERR or power-on
(spec/60_exceptions.md R208, which the spec marks as derived from R205 and R206; power-on as an input is log 5). -/
def Obligations.FirstErrorIsKept : Prop :=
  ∀ (s t : State) (a : Access) (later : List Access), s.inputs = a :: later → s.status.err = true →
    a ≠ writeCmd 0x00000005#32 → a ≠ .powerOn → step s = .next t →
    t.status.err = true ∧ t.status.cause = s.status.cause ∧ t.errinfo = s.errinfo

/-- spec/60_exceptions.md R202: an UPDATE or HASH whose chunk leaves SRC raises BOUNDS_VIOLATION with its own word, and
nothing else changes: no context field, so for HASH it comes before the reset. It needs no byte of SRC to be written. -/
def Obligations.BoundsViolationChangesNothingElse : Prop :=
  ∀ (s : State) (i : Instr) (word : Word32),
    (i, word) ∈ [(Instr.update32, 0x2#32), (Instr.update64, 0xA#32), (Instr.hash32, 0x4#32),
      (Instr.hash64, 0xC#32)] →
    s.status.err = false → s.cfg.srcBytes < (s.argOff.setWidth 33 + s.argLen.setWidth 33).toNat →
    exec i s = .next { s with
      status := { err := true, rv := s.status.rv, rw := s.status.rw, cause := 2#4 }
      errinfo := word }

/-- spec/30_encoding.md R77: the 33-bit sum cannot wrap, so the bounds test is the one on whole numbers; with n = 0 it still
needs off <= SRC_BYTES. -/
def Obligations.BoundsSumCannotWrap : Prop :=
  ∀ s : State,
    s.chunkEnd.toNat = s.argOff.toNat + s.argLen.toNat ∧
    (s.chunkInBounds = true ↔ s.argOff.toNat + s.argLen.toNat ≤ s.cfg.srcBytes) ∧
    (s.argLen = 0#32 → (s.chunkInBounds = true ↔ s.argOff.toNat ≤ s.cfg.srcBytes))

/-- The model's choice of log 2 (spec/93_implementation_defined.md U1 recommends it): an UPDATE or HASH in bounds that
reaches an unwritten byte of SRC faults at the first such address, and so does a host read of such a byte. -/
def Obligations.UnwrittenByteFaults : Prop :=
  (∀ (s : State) (i : Instr) (addr : Nat), readsChunk i = true → s.status.err = false →
    s.argOff.toNat + s.argLen.toNat ≤ s.cfg.srcBytes →
    s.argOff.toNat ≤ addr → addr < s.argOff.toNat + s.argLen.toNat → s.src.read addr = none →
    (∀ k, s.argOff.toNat ≤ k → k < addr → (s.src.read k).isSome = true) →
    exec i s = .fault (.unwrittenSrcByte addr)) ∧
  ∀ (s : State) (addr : Nat) (later : List Access), s.inputs = .srcRead addr :: later →
    addr < s.cfg.srcBytes → s.src.read addr = none → step s = .fault (.unwrittenSrcByte addr)

/-! ### What each command does -/

/-- spec/41_reset_cmd.md R143: CLRERR in every state, its one encoding, that it has no effect when there is no error, that it
is the only command the error lock lets through, and the rule's example. -/
def Obligations.ClrerrResult : Prop :=
  (∀ s : State, exec .clrerr s = .next { s with
    status := { err := false, rv := s.status.rv, rw := s.status.rw, cause := 0#4 }
    errinfo := 0x00000000#32 }) ∧
  (∀ c : Word32, decode c = .ok .clrerr ↔ c = 0x00000005#32) ∧ legalWord 0x0000000D#32 = false ∧
  (∀ s : State, s.status.err = false → s.status.cause = 0#4 → s.errinfo = 0#32 → exec .clrerr s = .next s) ∧
  (∀ (s : State) (i : Instr), s.status.err = true → i ≠ .clrerr → exec i s = .next s) ∧
  ∀ s t : State, s.status.word = 0x00000021#32 → s.errinfo = 0x00000002#32 → exec .clrerr s = .next t →
    t.status.word = 0x00000000#32 ∧ t.errinfo = 0#32

/-- spec/41_reset_cmd.md R140, R141: what RESET32 leaves. -/
def Obligations.Reset32Result : Prop :=
  ∀ s : State, s.status.err = false →
    exec .reset32 s = .next { s with
      c32 :=
        { seed := s.argSeedLo
          lanes :=
            { v1 := s.argSeedLo + 0x9E3779B1#32 + 0x85EBCA77#32
              v2 := s.argSeedLo + 0x85EBCA77#32
              v3 := s.argSeedLo
              v4 := s.argSeedLo - 0x9E3779B1#32 }
          totalLen := 0#64
          pbuf := Vector.replicate 16 0x00#8
          plen := 0
          large := false } }

/-- spec/41_reset_cmd.md R140, R142: what RESET64 leaves. -/
def Obligations.Reset64Result : Prop :=
  ∀ s : State, s.status.err = false →
    exec .reset64 s = .next { s with
      c64 :=
        { seed := s.argSeedHi ++ s.argSeedLo
          lanes :=
            { v1 := (s.argSeedHi ++ s.argSeedLo) + 0x9E3779B185EBCA87#64 + 0xC2B2AE3D27D4EB4F#64
              v2 := (s.argSeedHi ++ s.argSeedLo) + 0xC2B2AE3D27D4EB4F#64
              v3 := s.argSeedHi ++ s.argSeedLo
              v4 := (s.argSeedHi ++ s.argSeedLo) - 0x9E3779B185EBCA87#64 }
          totalLen := 0#64
          pbuf := Vector.replicate 32 0x00#8
          plen := 0 } }

/-- spec/42_update.md R150, R152, R158: UPDATE32 on a chunk in bounds whose bytes are `data` leaves what the pseudocode's
loops compute, stale bytes of PBUF included. -/
def Obligations.Update32FollowsPseudocode : Prop :=
  ∀ (s : State) (data : List Byte), s.status.err = false →
    s.argOff.toNat + s.argLen.toNat ≤ s.cfg.srcBytes → data.length = s.argLen.toNat →
    (∀ k < s.argLen.toNat, s.src.read (s.argOff.toNat + k) = data[k]?) →
    ∃ c : Ctx32, exec .update32 s = .next { s with c32 := c } ∧
      c.seed = s.c32.seed ∧ c.totalLen = s.c32.totalLen + s.argLen.setWidth 64 ∧
      (c.large = true ↔ s.c32.large = true ∨ 16 ≤ (s.c32.totalLen + s.argLen.setWidth 64).toNat) ∧
      (c.lanes, c.pbuf.toList, c.plen.val) =
        updatePseudo xh32 16 s.c32.lanes s.c32.pbuf.toList s.c32.plen.val data

/-- spec/42_update.md R150, R152, R159: UPDATE64, as UPDATE32. -/
def Obligations.Update64FollowsPseudocode : Prop :=
  ∀ (s : State) (data : List Byte), s.status.err = false →
    s.argOff.toNat + s.argLen.toNat ≤ s.cfg.srcBytes → data.length = s.argLen.toNat →
    (∀ k < s.argLen.toNat, s.src.read (s.argOff.toNat + k) = data[k]?) →
    ∃ c : Ctx64, exec .update64 s = .next { s with c64 := c } ∧
      c.seed = s.c64.seed ∧ c.totalLen = s.c64.totalLen + s.argLen.setWidth 64 ∧
      (c.lanes, c.pbuf.toList, c.plen.val) =
        updatePseudo xh64 32 s.c64.lanes s.c64.pbuf.toList s.c64.plen.val data

/-- spec/43_digest.md R170, R175: DIGEST32 writes what the pseudocode's loops compute from C32, zero-extended, and sets RV
and clears RW. -/
def Obligations.Digest32FollowsPseudocode : Prop :=
  ∀ s : State, s.status.err = false →
    exec .digest32 s = .next { s with
      result := (digestPseudo32 s.c32).setWidth 64
      status := { err := false, rv := true, rw := false, cause := s.status.cause } }

/-- spec/43_digest.md R170, R176: DIGEST64, with RW set. -/
def Obligations.Digest64FollowsPseudocode : Prop :=
  ∀ s : State, s.status.err = false →
    exec .digest64 s = .next { s with
      result := digestPseudo64 s.c64
      status := { err := false, rv := true, rw := true, cause := s.status.cause } }

/-- spec/43_digest.md R178, R179, R180: HASH32 on a chunk in bounds whose bytes are `data` leaves C32 holding the stream
(seed, data) and RESULT its digest. -/
def Obligations.Hash32DigestsItsChunk : Prop :=
  ∀ (s : State) (data : List Byte), s.status.err = false →
    s.argOff.toNat + s.argLen.toNat ≤ s.cfg.srcBytes → data.length = s.argLen.toNat →
    (∀ k < s.argLen.toNat, s.src.read (s.argOff.toNat + k) = data[k]?) →
    ∃ c : Ctx32, c.holdsStream s.argSeedLo data ∧
      exec .hash32 s = .next { s with
        c32 := c
        result := (streamDigest32 s.argSeedLo data).setWidth 64
        status := { err := false, rv := true, rw := false, cause := s.status.cause } }

/-- spec/43_digest.md R178, R179, R181: HASH64, as HASH32, with the 64-bit seed. -/
def Obligations.Hash64DigestsItsChunk : Prop :=
  ∀ (s : State) (data : List Byte), s.status.err = false →
    s.argOff.toNat + s.argLen.toNat ≤ s.cfg.srcBytes → data.length = s.argLen.toNat →
    (∀ k < s.argLen.toNat, s.src.read (s.argOff.toNat + k) = data[k]?) →
    ∃ c : Ctx64, c.holdsStream (s.argSeedHi ++ s.argSeedLo) data ∧
      exec .hash64 s = .next { s with
        c64 := c
        result := streamDigest64 (s.argSeedHi ++ s.argSeedLo) data
        status := { err := false, rv := true, rw := true, cause := s.status.cause } }

/-- HASH gives the state of RESET, UPDATE, DIGEST when the range is in bounds and its bytes are written (log 2); out of
bounds the two differ: HASH raises before the reset, the sequence resets and its UPDATE raises (spec/43_digest.md R182,
which the spec marks as derived from R180, R181 and the rules of the three commands). -/
def Obligations.HashIsResetUpdateDigest : Prop :=
  ∀ s : State, s.status.err = false →
    (s.argOff.toNat + s.argLen.toNat ≤ s.cfg.srcBytes → s.src.written s.argOff.toNat s.argLen.toNat →
      (∃ r u d, exec .reset32 s = .next r ∧ exec .update32 r = .next u ∧ exec .digest32 u = .next d ∧
        exec .hash32 s = .next d) ∧
      ∃ r u d, exec .reset64 s = .next r ∧ exec .update64 r = .next u ∧ exec .digest64 u = .next d ∧
        exec .hash64 s = .next d) ∧
    (s.cfg.srcBytes < s.argOff.toNat + s.argLen.toNat →
      (∃ t, exec .hash32 s = .next t ∧ t.c32 = s.c32 ∧ t.status.err = true ∧ t.errinfo = 0x4#32) ∧
      (∃ r u, exec .reset32 s = .next r ∧ exec .update32 r = .next u ∧ u.c32.holdsStream s.argSeedLo [] ∧
        u.status.err = true ∧ u.errinfo = 0x2#32) ∧
      (∃ t, exec .hash64 s = .next t ∧ t.c64 = s.c64 ∧ t.status.err = true ∧ t.errinfo = 0xC#32) ∧
      ∃ r u, exec .reset64 s = .next r ∧ exec .update64 r = .next u ∧
        u.c64.holdsStream (s.argSeedHi ++ s.argSeedLo) [] ∧ u.status.err = true ∧ u.errinfo = 0xA#32)

/-- A zero-length UPDATE that passes the bounds check changes nothing, not even a stale byte (spec/42_update.md R160, which
the spec marks as derived from R150 and R153). The invariant rules out a C32 that has TOTAL_LEN >= 16 and LARGE clear. -/
def Obligations.ZeroLengthUpdateChangesNothing : Prop :=
  ∀ s : State, s.Inv → s.status.err = false → s.argLen = 0#32 → s.argOff.toNat ≤ s.cfg.srcBytes →
    exec .update32 s = .next s ∧ exec .update64 s = .next s

/-! ### Streams -/

/-- After a reset, the state of a context but for its stale bytes depends only on the seed and the concatenation of the
chunks it received, and it is the one spec/42_update.md R157 gives (which the spec marks as derived from R152 to R156). -/
def Obligations.ChunkingInvariance : Prop :=
  (∀ (seed : Word32) (chunks : List (List Byte)), chunks.flatten.length < 2 ^ 64 →
    (chunks.foldl Ctx32.update (Ctx32.reset seed)).holdsStream seed chunks.flatten) ∧
  ∀ (seed : Word64) (chunks : List (List Byte)), chunks.flatten.length < 2 ^ 64 →
    (chunks.foldl Ctx64.update (Ctx64.reset seed)).holdsStream seed chunks.flatten

/-- Along every run the contexts hold the streams that the commands built: whatever the host does next, each context goes
from the stream it holds to the one `nextStream32` and `nextStream64` give (spec/42_update.md R157 at the level of
steps). -/
def Obligations.StepsKeepTheStreams : Prop :=
  ∀ (s t : State), step s = .next t →
    (∀ held, s.c32.holdsStream held.1 held.2 → (s.nextStream32 held).2.length < 2 ^ 64 →
      t.c32.holdsStream (s.nextStream32 held).1 (s.nextStream32 held).2) ∧
    ∀ held, s.c64.holdsStream held.1 held.2 → (s.nextStream64 held).2.length < 2 ^ 64 →
      t.c64.holdsStream (s.nextStream64 held).1 (s.nextStream64 held).2

/-- After a reset and any chunks, DIGEST gives the digest of (seed, concatenation), and HASH of the whole concatenation with
that seed gives the same (spec/43_digest.md R178, which the spec marks as derived from R170 and R157). -/
def Obligations.DigestDependsOnlyOnTheStream : Prop :=
  (∀ (seed : Word32) (chunks : List (List Byte)), chunks.flatten.length < 2 ^ 64 →
    (∀ s t : State, s.c32 = chunks.foldl Ctx32.update (Ctx32.reset seed) → s.status.err = false →
      exec .digest32 s = .next t → t.result = (streamDigest32 seed chunks.flatten).setWidth 64) ∧
    ∀ s t : State, s.argSeedLo = seed → s.chunk = .ok chunks.flatten → s.chunkInBounds = true →
      s.status.err = false → exec .hash32 s = .next t →
      t.result = (streamDigest32 seed chunks.flatten).setWidth 64) ∧
  ∀ (seed : Word64) (chunks : List (List Byte)), chunks.flatten.length < 2 ^ 64 →
    (∀ s t : State, s.c64 = chunks.foldl Ctx64.update (Ctx64.reset seed) → s.status.err = false →
      exec .digest64 s = .next t → t.result = streamDigest64 seed chunks.flatten) ∧
    ∀ s t : State, s.argSeedHi ++ s.argSeedLo = seed → s.chunk = .ok chunks.flatten →
      s.chunkInBounds = true → s.status.err = false → exec .hash64 s = .next t →
      t.result = streamDigest64 seed chunks.flatten

/-- A DIGEST after a DIGEST of the same context gives the same RESULT, with any commands between that do not change the
context, and DIGEST or RESET of the other context and CLRERR are such commands (spec/43_digest.md R177, which the spec
marks as derived from R174 and R175). -/
def Obligations.DigestIsIdempotent : Prop :=
  (∀ s t u v : State, s.status.err = false → exec .digest32 s = .next t → u.c32 = t.c32 → u.status.err = false →
    exec .digest32 u = .next v → v.result = t.result ∧ t.c32 = s.c32) ∧
  (∀ t u : State, ∀ i ∈ [Instr.digest32, .digest64, .reset64, .clrerr], exec i t = .next u → u.c32 = t.c32) ∧
  (∀ s t u v : State, s.status.err = false → exec .digest64 s = .next t → u.c64 = t.c64 → u.status.err = false →
    exec .digest64 u = .next v → v.result = t.result ∧ t.c64 = s.c64) ∧
  ∀ t u : State, ∀ i ∈ [Instr.digest32, .digest64, .reset32, .clrerr], exec i t = .next u → u.c64 = t.c64

/-- spec/10_state.md R25: no digest, and no other field an UPDATE leaves, depends on the stale bytes of PBUF. -/
def Obligations.StaleBytesAreNeverRead : Prop :=
  (∀ c d : Ctx32, Ctx.sameButStale c.toCtx d.toCtx → c.large = d.large →
    digestCore32 c = digestCore32 d ∧
    ∀ data, Ctx.sameButStale (c.update data).toCtx (d.update data).toCtx ∧
      (c.update data).large = (d.update data).large) ∧
  ∀ c d : Ctx64, Ctx.sameButStale c d →
    digestCore64 c = digestCore64 d ∧ ∀ data, Ctx.sameButStale (Ctx64.update c data) (Ctx64.update d data)

/-- spec/10_state.md R26: LARGE, once set, stays set until RESET32, HASH32 or power-on. -/
def Obligations.LargeIsSticky : Prop :=
  ∀ s t : State, s.c32.large = true → step s = .next t →
    t.c32.large = true ∨
    ∃ a later, s.inputs = a :: later ∧ a ∈ [writeCmd 0x1#32, writeCmd 0x4#32, Access.powerOn]

/-! ### The datapath -/

/-- spec/40_datapath.md R102: the rule's formula, what it means (bit i of the rotation is bit i - r mod w of the operand), its
corner cases and examples. -/
def Obligations.RotlMovesBits : Prop :=
  (∀ (w : Nat) (x : BitVec w) (r : Nat), 0 < r → r < w →
    rotl x r = (x <<< r) ||| (x >>> (w - r)) ∧
    (∀ i < w, (rotl x r).getLsbD i = x.getLsbD ((i + (w - r)) % w)) ∧
    rotl (0#w) r = 0#w ∧ rotl (BitVec.allOnes w) r = BitVec.allOnes w) ∧
  rotl 0x80000001#32 1 = 0x00000003#32 ∧ rotl 0x8000000000000001#64 1 = 0x0000000000000003#64

/-- spec/20_memory.md R53: LE_n is the sum of the bytes, byte i shifted left by 8i, as an 8n-bit value, and its bits are
those of the bytes, byte 0 the least significant. -/
def Obligations.LittleEndianAssembly : Prop :=
  ∀ bytes : List Byte,
    (le (8 * bytes.length) bytes).toNat = ∑ i : Fin bytes.length, bytes[i].toNat <<< (8 * i.val) ∧
    ∀ (i : Fin bytes.length) (j : Nat), j < 8 →
      (le (8 * bytes.length) bytes).getLsbD (8 * i.val + j) = bytes[i].getLsbD j

/-- spec/40_datapath.md R113 (the bijection it states) and spec/93_implementation_defined.md G8 (for both widths). -/
def Obligations.AvalancheIsBijective : Prop :=
  Function.Bijective (avalanche xh32) ∧ Function.Bijective (avalanche xh64)

/-! ### Registers and host accesses -/

/-- spec/10_state.md R40: the ARG registers keep their values across commands and errors, and a host write to them is
performed in every state. -/
def Obligations.ArgumentsAreKept : Prop :=
  (∀ (s t : State) (c : Word32) (later : List Access), s.inputs = writeCmd c :: later → step s = .next t →
    t.argOff = s.argOff ∧ t.argLen = s.argLen ∧ t.argSeedLo = s.argSeedLo ∧ t.argSeedHi = s.argSeedHi) ∧
  ∀ (s : State) (v : Word32) (later : List Access),
    (s.inputs = .regWrite 0x10 4 v :: later → step s = .next { s with inputs := later, argOff := v }) ∧
    (s.inputs = .regWrite 0x14 4 v :: later → step s = .next { s with inputs := later, argLen := v }) ∧
    (s.inputs = .regWrite 0x18 4 v :: later → step s = .next { s with inputs := later, argSeedLo := v }) ∧
    (s.inputs = .regWrite 0x1C 4 v :: later → step s = .next { s with inputs := later, argSeedHi := v })

/-- spec/10_state.md R33, R34, R38, R39: host writes to STATUS, ERRINFO, RESULT_LO, RESULT_HI and the reserved offsets are
ignored. -/
def Obligations.ReadOnlyRegistersIgnoreWrites : Prop :=
  ∀ (s : State) (v : Word32) (later : List Access),
    ∀ offset ∈ [0x04, 0x08, 0x0C, 0x20, 0x24, 0x28, 0x2C, 0x30, 0x34, 0x38, 0x3C],
      s.inputs = .regWrite offset 4 v :: later → step s = .next { s with inputs := later }

/-- spec/10_state.md R31 to R39, spec/20_memory.md R60: what a host read of each offset returns, with no side effect (the
list of returned values is the model's own field, log 4). -/
def Obligations.RegisterReadsReturnTheirValue : Prop :=
  ∀ (s : State) (later : List Access),
    ∀ p ∈ [(0x00, 0#32), (0x04, s.status.word), (0x08, s.errinfo), (0x0C, 0#32), (0x10, s.argOff),
      (0x14, s.argLen), (0x18, s.argSeedLo), (0x1C, s.argSeedHi), (0x20, s.result.extractLsb' 0 32),
      (0x24, s.result.extractLsb' 32 32), (0x28, 0#32), (0x2C, 0#32), (0x30, 0#32), (0x34, 0#32), (0x38, 0#32),
      (0x3C, 0#32)],
      s.inputs = .regRead p.1 4 :: later →
      step s = .next { s with inputs := later, shown := s.shown ++ [.reg p.2] }

/-- spec/10_state.md R33: the bits of STATUS as the host reads it. -/
def Obligations.StatusWordHasItsFields : Prop :=
  ∀ st : Status,
    st.word.getLsbD 0 = st.err ∧ st.word.getLsbD 1 = st.rv ∧ st.word.getLsbD 2 = st.rw ∧
    st.word.getLsbD 3 = false ∧ st.word.extractLsb' 4 4 = st.cause ∧ st.word.extractLsb' 8 24 = 0#24

/-- spec/20_memory.md R59: host SRC accesses, in every state (so also while ERR = 1). -/
def Obligations.HostSrcAccesses : Prop :=
  ∀ (s : State) (addr : Nat) (later : List Access),
    (∀ v, s.inputs = .srcWrite addr v :: later → addr < s.cfg.srcBytes →
      ∃ m : Memory, step s = .next { s with inputs := later, src := m } ∧
        ∀ b, m.read b = if b = addr then some v else s.src.read b) ∧
    (∀ v, s.inputs = .srcRead addr :: later → addr < s.cfg.srcBytes → s.src.read addr = some v →
      step s = .next { s with inputs := later, shown := s.shown ++ [.src v] }) ∧
    (∀ v, s.inputs = .srcWrite addr v :: later → s.cfg.srcBytes ≤ addr →
      step s = .refused (.srcAddressOutOfRange addr)) ∧
    (s.inputs = .srcRead addr :: later → s.cfg.srcBytes ≤ addr →
      step s = .refused (.srcAddressOutOfRange addr))

/-- spec/20_memory.md R58, R59: the step refuses exactly the accesses the block does not define. -/
def Obligations.OnlyUndefinedAccessesAreRefused : Prop :=
  ∀ s : State, (∃ r, step s = .refused r) ↔ ∃ a later, s.inputs = a :: later ∧ a.wf s.cfg = false

/-- spec/42_update.md R161, spec/60_exceptions.md R203: a step answers a next state exactly when its input is defined and
reads no unwritten byte of SRC (log 2). -/
def Obligations.SafeInputsRun : Prop :=
  ∀ (s : State) (a : Access) (later : List Access), s.inputs = a :: later →
    ((∃ t, step s = .next t) ↔ s.inputSafe a)

/-- With no input left the block is idle (spec/70_reset_and_hazards.md R231; the model's choice of log 3). -/
def Obligations.IdleStepChangesNothing : Prop :=
  ∀ s : State, s.inputs = [] → step s = .next s

/-! ### Whole-machine rules -/

/-- A command on one context neither writes nor reads the other (spec/00_scope.md R7, and spec/41_reset_cmd.md R144, which
the spec marks as derived from R140 and R7). CLRERR acts on no context. -/
def Obligations.ContextsAreIndependent : Prop :=
  (∀ i ∈ [Instr.reset32, .update32, .digest32, .hash32, .clrerr], ∀ (s : State) (c : Ctx64),
    exec i { s with c64 := c } = mapNext (fun t => { t with c64 := c }) (exec i s)) ∧
  ∀ i ∈ [Instr.reset64, .update64, .digest64, .hash64, .clrerr], ∀ (s : State) (c : Ctx32),
    exec i { s with c32 := c } = mapNext (fun t => { t with c32 := c }) (exec i s)

/-- spec/10_state.md R37: the commands of C32 ignore ARG_SEED_HI, and UPDATE and DIGEST of both contexts ignore the whole
seed. -/
def Obligations.UnusedSeedBitsAreIgnored : Prop :=
  (∀ i ∈ [Instr.reset32, .hash32], ∀ (s : State) (v : Word32),
    exec i { s with argSeedHi := v } = mapNext (fun t => { t with argSeedHi := v }) (exec i s)) ∧
  ∀ i ∈ [Instr.update32, .digest32, .update64, .digest64], ∀ (s : State) (lo hi : Word32),
    exec i { s with argSeedLo := lo, argSeedHi := hi } =
      mapNext (fun t => { t with argSeedLo := lo, argSeedHi := hi }) (exec i s)

/-- spec/10_state.md R33, R38: RESULT, RV and RW change only by DIGEST and HASH on an unlocked block, or by power-on; RV,
once set, is cleared only by power-on. -/
def Obligations.OnlyDigestAndHashWriteResult : Prop :=
  ∀ s t : State, step s = .next t →
    (t.result ≠ s.result ∨ t.status.rv ≠ s.status.rv ∨ t.status.rw ≠ s.status.rw →
      ∃ a later, s.inputs = a :: later ∧
        (a = .powerOn ∨ (s.status.err = false ∧
          a ∈ [writeCmd 0x3#32, writeCmd 0x4#32, writeCmd 0xB#32, writeCmd 0xC#32]))) ∧
    (s.status.rv = true → t.status.rv = true ∨ ∃ later, s.inputs = .powerOn :: later)

/-- spec/20_memory.md R51: only the host writes SRC (and power-on leaves it unwritten, log 5). -/
def Obligations.OnlyTheHostWritesSrc : Prop :=
  ∀ (s t : State) (addr : Nat), step s = .next t → t.src.read addr ≠ s.src.read addr →
    ∃ a later, s.inputs = a :: later ∧ (a = .powerOn ∨ ∃ v, a = .srcWrite addr v)

/-! ### Frames -/

/-- What RESET32 and RESET64 leave unchanged: everything but their own context. -/
def Obligations.ResetFrame : Prop :=
  ∀ s t : State,
    (exec .reset32 s = .next t →
      t.c64 = s.c64 ∧ t.status = s.status ∧ t.errinfo = s.errinfo ∧ t.result = s.result ∧ s.operandsKept t) ∧
    (exec .reset64 s = .next t →
      t.c32 = s.c32 ∧ t.status = s.status ∧ t.errinfo = s.errinfo ∧ t.result = s.result ∧ s.operandsKept t)

/-- What UPDATE32 and UPDATE64 leave unchanged: everything but their own context, of which SEED is kept too; or, when the
chunk leaves SRC, everything but ERR, CAUSE and ERRINFO. -/
def Obligations.UpdateFrame : Prop :=
  ∀ s t : State,
    (exec .update32 s = .next t →
      t.c64 = s.c64 ∧ t.result = s.result ∧ s.operandsKept t ∧ t.c32.seed = s.c32.seed ∧
      t.status.rv = s.status.rv ∧ t.status.rw = s.status.rw ∧
      (t.status = s.status ∧ t.errinfo = s.errinfo ∨
        t.c32 = s.c32 ∧ s.cfg.srcBytes < s.argOff.toNat + s.argLen.toNat)) ∧
    (exec .update64 s = .next t →
      t.c32 = s.c32 ∧ t.result = s.result ∧ s.operandsKept t ∧ t.c64.seed = s.c64.seed ∧
      t.status.rv = s.status.rv ∧ t.status.rw = s.status.rw ∧
      (t.status = s.status ∧ t.errinfo = s.errinfo ∨
        t.c64 = s.c64 ∧ s.cfg.srcBytes < s.argOff.toNat + s.argLen.toNat))

/-- What DIGEST32 and DIGEST64 leave unchanged: everything but RESULT, RV and RW. -/
def Obligations.DigestFrame : Prop :=
  ∀ s t : State, exec .digest32 s = .next t ∨ exec .digest64 s = .next t →
    t.c32 = s.c32 ∧ t.c64 = s.c64 ∧ t.errinfo = s.errinfo ∧ s.operandsKept t ∧
    t.status.err = s.status.err ∧ t.status.cause = s.status.cause

/-- What HASH32 and HASH64 leave unchanged: everything but their own context, RESULT, RV and RW; or, when the chunk leaves
SRC, everything but ERR, CAUSE and ERRINFO. -/
def Obligations.HashFrame : Prop :=
  ∀ s t : State,
    (exec .hash32 s = .next t →
      t.c64 = s.c64 ∧ s.operandsKept t ∧
      (t.status.err = s.status.err ∧ t.status.cause = s.status.cause ∧ t.errinfo = s.errinfo ∨
        t.c32 = s.c32 ∧ t.result = s.result ∧ t.status.rv = s.status.rv ∧ t.status.rw = s.status.rw ∧
          s.cfg.srcBytes < s.argOff.toNat + s.argLen.toNat)) ∧
    (exec .hash64 s = .next t →
      t.c32 = s.c32 ∧ s.operandsKept t ∧
      (t.status.err = s.status.err ∧ t.status.cause = s.status.cause ∧ t.errinfo = s.errinfo ∨
        t.c64 = s.c64 ∧ t.result = s.result ∧ t.status.rv = s.status.rv ∧ t.status.rw = s.status.rw ∧
          s.cfg.srcBytes < s.argOff.toNat + s.argLen.toNat))

/-- What CLRERR leaves unchanged: everything but ERR, CAUSE and ERRINFO. -/
def Obligations.ClrerrFrame : Prop :=
  ∀ s t : State, exec .clrerr s = .next t →
    t.c32 = s.c32 ∧ t.c64 = s.c64 ∧ t.result = s.result ∧ s.operandsKept t ∧
    t.status.rv = s.status.rv ∧ t.status.rw = s.status.rw

/-! ### Reset and the invariant -/

/-- spec/70_reset_and_hazards.md R230: the state after power-on reset is `ContextReset` with seed 0 on both contexts and
every register 0. Of SRC, which the rule leaves unspecified, it says nothing. -/
def Obligations.PowerOnState : Prop :=
  State.reset.c32 = Ctx32.reset 0x00000000#32 ∧ State.reset.c64 = Ctx64.reset 0x0000000000000000#64 ∧
  State.reset.status.word = 0x00000000#32 ∧ State.reset.errinfo = 0x00000000#32 ∧
  State.reset.argOff = 0x00000000#32 ∧ State.reset.argLen = 0x00000000#32 ∧
  State.reset.argSeedLo = 0x00000000#32 ∧ State.reset.argSeedHi = 0x00000000#32 ∧
  State.reset.result = 0x0000000000000000#64

/-- Power-on as an input leads back to the state after reset, with the parameters, the remaining inputs and what was shown
(the model's choice of log 5, after spec/60_exceptions.md R217); in that state no byte of SRC holds a value (log 2). -/
def Obligations.PowerOnInputResets : Prop :=
  (∀ (s : State) (later : List Access), s.inputs = .powerOn :: later →
    step s = .next { State.reset with cfg := s.cfg, inputs := later, shown := s.shown }) ∧
  ∀ addr, State.reset.src.read addr = none

/-- The state after reset has the invariant, and its contexts hold empty streams with seed 0. -/
def Obligations.ResetHasTheInvariant : Prop :=
  State.reset.Inv ∧ State.reset.c32.holdsStream 0#32 [] ∧ State.reset.c64.holdsStream 0#64 []

/-- Every step keeps the model's invariant, most parts of which the spec marks as derived: SRC canonical and within
SRC_BYTES (spec/20_memory.md R51), ERR = 0 <-> CAUSE = 0, CAUSE in 0, 1, 2, ERRINFO = 0 without an error
(spec/10_state.md R33, R34), RESULT = 0 until RV (spec/93_implementation_defined.md U10), PLEN = TOTAL_LEN mod S
(spec/10_state.md R24), and V1..V4 as reset while LARGE is clear (R26, R28). -/
def Obligations.EveryStepKeepsTheInvariant : Prop :=
  ∀ s t : State, s.Inv → step s = .next t → t.Inv
end

