-- ==== Sys2Proof/Laws/Memory.lean ====
section
/-! SUPPORT. SRC: every operation keeps the canonical form, a read after a write, and all that a range read can answer. -/

namespace Sys2Proof.Machine

@[simp] theorem read_nil (addr : Nat) : Memory.read [] addr = none := rfl

@[simp] theorem wf_nil : Memory.wf [] = true := rfl

theorem wf_cons (cell : Host.Cell) (rest : Memory) :
    Memory.wf (cell :: rest) = true ↔ (∀ later ∈ rest, cell.1 < later.1) ∧ Memory.wf rest = true := by
  simp [Memory.wf]

/-- A listed cell after a write is the written one or was listed before. -/
theorem mem_write {m : Memory} {addr : Nat} {value : Byte} {cell : Host.Cell}
    (h : cell ∈ Memory.write m addr value) : cell = (addr, value) ∨ cell ∈ m := by
  induction m with
  | nil => simpa [Memory.write] using h
  | cons head rest ih =>
    simp only [Memory.write] at h
    split at h
    · simpa using h
    · split at h
      · rcases List.mem_cons.mp h with rfl | h
        · exact .inl rfl
        · exact .inr (List.mem_cons_of_mem _ h)
      · rcases List.mem_cons.mp h with rfl | h
        · exact .inr List.mem_cons_self
        · exact (ih h).imp_right (List.mem_cons_of_mem _)

/-- A write keeps the canonical form. -/
theorem wf_write {m : Memory} (h : Memory.wf m = true) (addr : Nat) (value : Byte) :
    Memory.wf (Memory.write m addr value) = true := by
  induction m with
  | nil => rfl
  | cons head rest ih =>
    obtain ⟨below, tail⟩ := (wf_cons _ _).mp h
    simp only [Memory.write]
    split
    · rename_i lt
      exact (wf_cons _ _).mpr ⟨fun later hl => by
        rcases List.mem_cons.mp hl with rfl | hl
        · exact lt
        · exact lt.trans (below _ hl), h⟩
    · split
      · rename_i eq
        exact (wf_cons _ _).mpr ⟨fun later hl => by simpa [eq] using below _ hl, tail⟩
      · rename_i ge ne
        exact (wf_cons _ _).mpr ⟨fun later hl => by
          rcases mem_write hl with rfl | hl
          · show head.1 < addr
            omega
          · exact below _ hl, ih tail⟩

/-- A write keeps every listed address below a bound that the written address meets. -/
theorem bound_write {m : Memory} {bound addr : Nat} (value : Byte) (h : ∀ cell ∈ m, cell.1 < bound)
    (ha : addr < bound) : ∀ cell ∈ Memory.write m addr value, cell.1 < bound := by
  intro cell hc
  rcases mem_write hc with rfl | hc
  · exact ha
  · exact h _ hc

/-- Nothing is listed below the first address of a canonical memory. -/
theorem read_below {m : Memory} {addr : Nat} (h : ∀ later ∈ m, addr < later.1) : Memory.read m addr = none := by
  induction m with
  | nil => rfl
  | cons head rest ih =>
    have lt := h head List.mem_cons_self
    simp only [Memory.read]
    rw [if_neg (by omega)]
    exact ih fun later hl => h later (List.mem_cons_of_mem _ hl)

/-- A read after a write: the written value at the written address, and every other address as before. It needs no
canonical form. -/
theorem read_write (m : Memory) (addr : Nat) (value : Byte) (other : Nat) :
    Memory.read (Memory.write m addr value) other = if other = addr then some value else Memory.read m other := by
  induction m with
  | nil => simp only [Memory.write, Memory.read, eq_comm]
  | cons head rest ih =>
    simp only [Memory.write]
    split
    · simp only [Memory.read]
      split_ifs <;> first | rfl | omega
    · split
      · simp only [Memory.read]
        split_ifs <;> first | rfl | omega
      · simp only [Memory.read, ih]
        split_ifs <;> first | rfl | omega

/-- All that a range read can answer with bytes: as many as asked for, each the byte at its address. -/
theorem readRange_ok_iff (m : Memory) (addr n : Nat) (data : List Byte) :
    Memory.readRange m addr n = .ok data ↔
      data.length = n ∧ ∀ k < n, Memory.read m (addr + k) = data[k]? := by
  induction n generalizing addr data with
  | zero =>
    simp only [Memory.readRange, Except.ok.injEq]
    constructor
    · rintro rfl; simp
    · rintro ⟨h, -⟩; exact (List.length_eq_zero_iff.mp h).symm
  | succ n ih =>
    simp only [Memory.readRange]
    cases hb : Memory.read m addr with
    | none =>
      simp only [reduceCtorEq, false_iff, not_and, not_forall]
      intro hlen
      refine ⟨0, by omega, ?_⟩
      simp only [Nat.add_zero, hb]
      rw [List.getElem?_eq_getElem (by omega)]
      simp
    | some b =>
      cases hr : Memory.readRange m (addr + 1) n with
      | error e =>
        simp only [reduceCtorEq, false_iff, not_and, not_forall]
        intro hlen
        obtain ⟨c, rest, rfl⟩ := List.exists_cons_of_length_eq_add_one hlen
        by_contra hall
        push Not at hall
        have : Memory.readRange m (addr + 1) n = .ok rest :=
          (ih _ _).mpr ⟨by simpa using hlen, fun k hk => by
            have := hall (k + 1) (by omega)
            simpa [Nat.add_assoc, Nat.add_comm 1 k] using this⟩
        rw [hr] at this
        cases this
      | ok bytes =>
        obtain ⟨hl, hk⟩ := (ih _ _).mp hr
        simp only [Except.ok.injEq]
        constructor
        · rintro rfl
          refine ⟨by simp [hl], fun k hkn => ?_⟩
          cases k with
          | zero => simpa using hb
          | succ k =>
            have := hk k (by omega)
            simpa [Nat.add_assoc, Nat.add_comm 1 k] using this
        · rintro ⟨hlen, hall⟩
          obtain ⟨c, rest, rfl⟩ := List.exists_cons_of_length_eq_add_one hlen
          have h0 := hall 0 (by omega)
          simp only [Nat.add_zero, hb, List.getElem?_cons_zero, Option.some.injEq] at h0
          have : Memory.readRange m (addr + 1) n = .ok rest :=
            (ih _ _).mpr ⟨by simpa using hlen, fun k hkn => by
              have := hall (k + 1) (by omega)
              simpa [Nat.add_assoc, Nat.add_comm 1 k] using this⟩
          rw [hr] at this
          simp only [Except.ok.injEq] at this
          rw [h0, this]

/-- All that a range read can answer without bytes: the first unwritten address of the range. -/
theorem readRange_error_iff (m : Memory) (addr n bad : Nat) :
    Memory.readRange m addr n = .error bad ↔
      addr ≤ bad ∧ bad < addr + n ∧ Memory.read m bad = none ∧
        ∀ k, addr ≤ k → k < bad → (Memory.read m k).isSome = true := by
  induction n generalizing addr with
  | zero => simp only [Memory.readRange, reduceCtorEq, false_iff]; omega
  | succ n ih =>
    simp only [Memory.readRange]
    cases hb : Memory.read m addr with
    | none =>
      simp only [Except.error.injEq]
      constructor
      · rintro rfl
        exact ⟨le_rfl, by omega, hb, fun k h1 h2 => by omega⟩
      · rintro ⟨h1, -, -, h4⟩
        by_contra hne
        have := h4 addr le_rfl (by omega)
        simp [hb] at this
    | some b =>
      have key : Memory.readRange m (addr + 1) n = .error bad ↔
          addr ≤ bad ∧ bad < addr + (n + 1) ∧ Memory.read m bad = none ∧
            ∀ k, addr ≤ k → k < bad → (Memory.read m k).isSome = true := by
        rw [ih]
        constructor
        · rintro ⟨h1, h2, h3, h4⟩
          refine ⟨by omega, by omega, h3, fun k hk1 hk2 => ?_⟩
          rcases Nat.lt_or_ge addr k with h | h
          · exact h4 k h hk2
          · obtain rfl : k = addr := by omega
            simp [hb]
        · rintro ⟨h1, h2, h3, h4⟩
          have hne : addr ≠ bad := by
            rintro rfl
            simp [hb] at h3
          exact ⟨by omega, by omega, h3, fun k hk1 hk2 => h4 k (by omega) hk2⟩
      cases hr : Memory.readRange m (addr + 1) n with
      | ok bytes => rw [hr] at key; simpa using key
      | error e => rw [hr] at key; simpa using key

end Sys2Proof.Machine
end

