-- ==== Sys2Proof/Laws/State.lean ====
section
/-! SUPPORT. For every update of the state, what each field is afterwards: one lemma per field and update, so that no later
proof unfolds a record update. -/

namespace Sys2Proof.Machine

variable (s : State)

/-! ### setC32 -/

@[simp] theorem setC32_c32 (c : Ctx32) : (s.setC32 c).c32 = c := rfl
@[simp] theorem setC32_c64 (c : Ctx32) : (s.setC32 c).c64 = s.c64 := rfl
@[simp] theorem setC32_status (c : Ctx32) : (s.setC32 c).status = s.status := rfl
@[simp] theorem setC32_errinfo (c : Ctx32) : (s.setC32 c).errinfo = s.errinfo := rfl
@[simp] theorem setC32_argOff (c : Ctx32) : (s.setC32 c).argOff = s.argOff := rfl
@[simp] theorem setC32_argLen (c : Ctx32) : (s.setC32 c).argLen = s.argLen := rfl
@[simp] theorem setC32_argSeedLo (c : Ctx32) : (s.setC32 c).argSeedLo = s.argSeedLo := rfl
@[simp] theorem setC32_argSeedHi (c : Ctx32) : (s.setC32 c).argSeedHi = s.argSeedHi := rfl
@[simp] theorem setC32_result (c : Ctx32) : (s.setC32 c).result = s.result := rfl
@[simp] theorem setC32_src (c : Ctx32) : (s.setC32 c).src = s.src := rfl
@[simp] theorem setC32_cfg (c : Ctx32) : (s.setC32 c).cfg = s.cfg := rfl
@[simp] theorem setC32_inputs (c : Ctx32) : (s.setC32 c).inputs = s.inputs := rfl
@[simp] theorem setC32_shown (c : Ctx32) : (s.setC32 c).shown = s.shown := rfl

/-! ### setC64 -/

@[simp] theorem setC64_c32 (c : Ctx64) : (s.setC64 c).c32 = s.c32 := rfl
@[simp] theorem setC64_c64 (c : Ctx64) : (s.setC64 c).c64 = c := rfl
@[simp] theorem setC64_status (c : Ctx64) : (s.setC64 c).status = s.status := rfl
@[simp] theorem setC64_errinfo (c : Ctx64) : (s.setC64 c).errinfo = s.errinfo := rfl
@[simp] theorem setC64_argOff (c : Ctx64) : (s.setC64 c).argOff = s.argOff := rfl
@[simp] theorem setC64_argLen (c : Ctx64) : (s.setC64 c).argLen = s.argLen := rfl
@[simp] theorem setC64_argSeedLo (c : Ctx64) : (s.setC64 c).argSeedLo = s.argSeedLo := rfl
@[simp] theorem setC64_argSeedHi (c : Ctx64) : (s.setC64 c).argSeedHi = s.argSeedHi := rfl
@[simp] theorem setC64_result (c : Ctx64) : (s.setC64 c).result = s.result := rfl
@[simp] theorem setC64_src (c : Ctx64) : (s.setC64 c).src = s.src := rfl
@[simp] theorem setC64_cfg (c : Ctx64) : (s.setC64 c).cfg = s.cfg := rfl
@[simp] theorem setC64_inputs (c : Ctx64) : (s.setC64 c).inputs = s.inputs := rfl
@[simp] theorem setC64_shown (c : Ctx64) : (s.setC64 c).shown = s.shown := rfl

/-! ### setArgOff -/

@[simp] theorem setArgOff_c32 (v : Word32) : (s.setArgOff v).c32 = s.c32 := rfl
@[simp] theorem setArgOff_c64 (v : Word32) : (s.setArgOff v).c64 = s.c64 := rfl
@[simp] theorem setArgOff_status (v : Word32) : (s.setArgOff v).status = s.status := rfl
@[simp] theorem setArgOff_errinfo (v : Word32) : (s.setArgOff v).errinfo = s.errinfo := rfl
@[simp] theorem setArgOff_argOff (v : Word32) : (s.setArgOff v).argOff = v := rfl
@[simp] theorem setArgOff_argLen (v : Word32) : (s.setArgOff v).argLen = s.argLen := rfl
@[simp] theorem setArgOff_argSeedLo (v : Word32) : (s.setArgOff v).argSeedLo = s.argSeedLo := rfl
@[simp] theorem setArgOff_argSeedHi (v : Word32) : (s.setArgOff v).argSeedHi = s.argSeedHi := rfl
@[simp] theorem setArgOff_result (v : Word32) : (s.setArgOff v).result = s.result := rfl
@[simp] theorem setArgOff_src (v : Word32) : (s.setArgOff v).src = s.src := rfl
@[simp] theorem setArgOff_cfg (v : Word32) : (s.setArgOff v).cfg = s.cfg := rfl
@[simp] theorem setArgOff_inputs (v : Word32) : (s.setArgOff v).inputs = s.inputs := rfl
@[simp] theorem setArgOff_shown (v : Word32) : (s.setArgOff v).shown = s.shown := rfl

/-! ### setArgLen -/

@[simp] theorem setArgLen_c32 (v : Word32) : (s.setArgLen v).c32 = s.c32 := rfl
@[simp] theorem setArgLen_c64 (v : Word32) : (s.setArgLen v).c64 = s.c64 := rfl
@[simp] theorem setArgLen_status (v : Word32) : (s.setArgLen v).status = s.status := rfl
@[simp] theorem setArgLen_errinfo (v : Word32) : (s.setArgLen v).errinfo = s.errinfo := rfl
@[simp] theorem setArgLen_argOff (v : Word32) : (s.setArgLen v).argOff = s.argOff := rfl
@[simp] theorem setArgLen_argLen (v : Word32) : (s.setArgLen v).argLen = v := rfl
@[simp] theorem setArgLen_argSeedLo (v : Word32) : (s.setArgLen v).argSeedLo = s.argSeedLo := rfl
@[simp] theorem setArgLen_argSeedHi (v : Word32) : (s.setArgLen v).argSeedHi = s.argSeedHi := rfl
@[simp] theorem setArgLen_result (v : Word32) : (s.setArgLen v).result = s.result := rfl
@[simp] theorem setArgLen_src (v : Word32) : (s.setArgLen v).src = s.src := rfl
@[simp] theorem setArgLen_cfg (v : Word32) : (s.setArgLen v).cfg = s.cfg := rfl
@[simp] theorem setArgLen_inputs (v : Word32) : (s.setArgLen v).inputs = s.inputs := rfl
@[simp] theorem setArgLen_shown (v : Word32) : (s.setArgLen v).shown = s.shown := rfl

/-! ### setArgSeedLo -/

@[simp] theorem setArgSeedLo_c32 (v : Word32) : (s.setArgSeedLo v).c32 = s.c32 := rfl
@[simp] theorem setArgSeedLo_c64 (v : Word32) : (s.setArgSeedLo v).c64 = s.c64 := rfl
@[simp] theorem setArgSeedLo_status (v : Word32) : (s.setArgSeedLo v).status = s.status := rfl
@[simp] theorem setArgSeedLo_errinfo (v : Word32) : (s.setArgSeedLo v).errinfo = s.errinfo := rfl
@[simp] theorem setArgSeedLo_argOff (v : Word32) : (s.setArgSeedLo v).argOff = s.argOff := rfl
@[simp] theorem setArgSeedLo_argLen (v : Word32) : (s.setArgSeedLo v).argLen = s.argLen := rfl
@[simp] theorem setArgSeedLo_argSeedLo (v : Word32) : (s.setArgSeedLo v).argSeedLo = v := rfl
@[simp] theorem setArgSeedLo_argSeedHi (v : Word32) : (s.setArgSeedLo v).argSeedHi = s.argSeedHi := rfl
@[simp] theorem setArgSeedLo_result (v : Word32) : (s.setArgSeedLo v).result = s.result := rfl
@[simp] theorem setArgSeedLo_src (v : Word32) : (s.setArgSeedLo v).src = s.src := rfl
@[simp] theorem setArgSeedLo_cfg (v : Word32) : (s.setArgSeedLo v).cfg = s.cfg := rfl
@[simp] theorem setArgSeedLo_inputs (v : Word32) : (s.setArgSeedLo v).inputs = s.inputs := rfl
@[simp] theorem setArgSeedLo_shown (v : Word32) : (s.setArgSeedLo v).shown = s.shown := rfl

/-! ### setArgSeedHi -/

@[simp] theorem setArgSeedHi_c32 (v : Word32) : (s.setArgSeedHi v).c32 = s.c32 := rfl
@[simp] theorem setArgSeedHi_c64 (v : Word32) : (s.setArgSeedHi v).c64 = s.c64 := rfl
@[simp] theorem setArgSeedHi_status (v : Word32) : (s.setArgSeedHi v).status = s.status := rfl
@[simp] theorem setArgSeedHi_errinfo (v : Word32) : (s.setArgSeedHi v).errinfo = s.errinfo := rfl
@[simp] theorem setArgSeedHi_argOff (v : Word32) : (s.setArgSeedHi v).argOff = s.argOff := rfl
@[simp] theorem setArgSeedHi_argLen (v : Word32) : (s.setArgSeedHi v).argLen = s.argLen := rfl
@[simp] theorem setArgSeedHi_argSeedLo (v : Word32) : (s.setArgSeedHi v).argSeedLo = s.argSeedLo := rfl
@[simp] theorem setArgSeedHi_argSeedHi (v : Word32) : (s.setArgSeedHi v).argSeedHi = v := rfl
@[simp] theorem setArgSeedHi_result (v : Word32) : (s.setArgSeedHi v).result = s.result := rfl
@[simp] theorem setArgSeedHi_src (v : Word32) : (s.setArgSeedHi v).src = s.src := rfl
@[simp] theorem setArgSeedHi_cfg (v : Word32) : (s.setArgSeedHi v).cfg = s.cfg := rfl
@[simp] theorem setArgSeedHi_inputs (v : Word32) : (s.setArgSeedHi v).inputs = s.inputs := rfl
@[simp] theorem setArgSeedHi_shown (v : Word32) : (s.setArgSeedHi v).shown = s.shown := rfl

/-! ### setSrc -/

@[simp] theorem setSrc_c32 (m : Memory) : (s.setSrc m).c32 = s.c32 := rfl
@[simp] theorem setSrc_c64 (m : Memory) : (s.setSrc m).c64 = s.c64 := rfl
@[simp] theorem setSrc_status (m : Memory) : (s.setSrc m).status = s.status := rfl
@[simp] theorem setSrc_errinfo (m : Memory) : (s.setSrc m).errinfo = s.errinfo := rfl
@[simp] theorem setSrc_argOff (m : Memory) : (s.setSrc m).argOff = s.argOff := rfl
@[simp] theorem setSrc_argLen (m : Memory) : (s.setSrc m).argLen = s.argLen := rfl
@[simp] theorem setSrc_argSeedLo (m : Memory) : (s.setSrc m).argSeedLo = s.argSeedLo := rfl
@[simp] theorem setSrc_argSeedHi (m : Memory) : (s.setSrc m).argSeedHi = s.argSeedHi := rfl
@[simp] theorem setSrc_result (m : Memory) : (s.setSrc m).result = s.result := rfl
@[simp] theorem setSrc_src (m : Memory) : (s.setSrc m).src = m := rfl
@[simp] theorem setSrc_cfg (m : Memory) : (s.setSrc m).cfg = s.cfg := rfl
@[simp] theorem setSrc_inputs (m : Memory) : (s.setSrc m).inputs = s.inputs := rfl
@[simp] theorem setSrc_shown (m : Memory) : (s.setSrc m).shown = s.shown := rfl

/-! ### setInputs -/

@[simp] theorem setInputs_c32 (l : List Access) : (s.setInputs l).c32 = s.c32 := rfl
@[simp] theorem setInputs_c64 (l : List Access) : (s.setInputs l).c64 = s.c64 := rfl
@[simp] theorem setInputs_status (l : List Access) : (s.setInputs l).status = s.status := rfl
@[simp] theorem setInputs_errinfo (l : List Access) : (s.setInputs l).errinfo = s.errinfo := rfl
@[simp] theorem setInputs_argOff (l : List Access) : (s.setInputs l).argOff = s.argOff := rfl
@[simp] theorem setInputs_argLen (l : List Access) : (s.setInputs l).argLen = s.argLen := rfl
@[simp] theorem setInputs_argSeedLo (l : List Access) : (s.setInputs l).argSeedLo = s.argSeedLo := rfl
@[simp] theorem setInputs_argSeedHi (l : List Access) : (s.setInputs l).argSeedHi = s.argSeedHi := rfl
@[simp] theorem setInputs_result (l : List Access) : (s.setInputs l).result = s.result := rfl
@[simp] theorem setInputs_src (l : List Access) : (s.setInputs l).src = s.src := rfl
@[simp] theorem setInputs_cfg (l : List Access) : (s.setInputs l).cfg = s.cfg := rfl
@[simp] theorem setInputs_inputs (l : List Access) : (s.setInputs l).inputs = l := rfl
@[simp] theorem setInputs_shown (l : List Access) : (s.setInputs l).shown = s.shown := rfl

/-! ### showValue -/

@[simp] theorem showValue_c32 (v : Shown) : (s.showValue v).c32 = s.c32 := rfl
@[simp] theorem showValue_c64 (v : Shown) : (s.showValue v).c64 = s.c64 := rfl
@[simp] theorem showValue_status (v : Shown) : (s.showValue v).status = s.status := rfl
@[simp] theorem showValue_errinfo (v : Shown) : (s.showValue v).errinfo = s.errinfo := rfl
@[simp] theorem showValue_argOff (v : Shown) : (s.showValue v).argOff = s.argOff := rfl
@[simp] theorem showValue_argLen (v : Shown) : (s.showValue v).argLen = s.argLen := rfl
@[simp] theorem showValue_argSeedLo (v : Shown) : (s.showValue v).argSeedLo = s.argSeedLo := rfl
@[simp] theorem showValue_argSeedHi (v : Shown) : (s.showValue v).argSeedHi = s.argSeedHi := rfl
@[simp] theorem showValue_result (v : Shown) : (s.showValue v).result = s.result := rfl
@[simp] theorem showValue_src (v : Shown) : (s.showValue v).src = s.src := rfl
@[simp] theorem showValue_cfg (v : Shown) : (s.showValue v).cfg = s.cfg := rfl
@[simp] theorem showValue_inputs (v : Shown) : (s.showValue v).inputs = s.inputs := rfl
@[simp] theorem showValue_shown (v : Shown) : (s.showValue v).shown = s.shown ++ [v] := rfl

/-! ### setDigest -/

@[simp] theorem setDigest_c32 (b : Bool) (d : Word64) : (s.setDigest b d).c32 = s.c32 := rfl
@[simp] theorem setDigest_c64 (b : Bool) (d : Word64) : (s.setDigest b d).c64 = s.c64 := rfl
@[simp] theorem setDigest_status (b : Bool) (d : Word64) : (s.setDigest b d).status = s.status.digestWritten b := rfl
@[simp] theorem setDigest_errinfo (b : Bool) (d : Word64) : (s.setDigest b d).errinfo = s.errinfo := rfl
@[simp] theorem setDigest_argOff (b : Bool) (d : Word64) : (s.setDigest b d).argOff = s.argOff := rfl
@[simp] theorem setDigest_argLen (b : Bool) (d : Word64) : (s.setDigest b d).argLen = s.argLen := rfl
@[simp] theorem setDigest_argSeedLo (b : Bool) (d : Word64) : (s.setDigest b d).argSeedLo = s.argSeedLo := rfl
@[simp] theorem setDigest_argSeedHi (b : Bool) (d : Word64) : (s.setDigest b d).argSeedHi = s.argSeedHi := rfl
@[simp] theorem setDigest_result (b : Bool) (d : Word64) : (s.setDigest b d).result = d := rfl
@[simp] theorem setDigest_src (b : Bool) (d : Word64) : (s.setDigest b d).src = s.src := rfl
@[simp] theorem setDigest_cfg (b : Bool) (d : Word64) : (s.setDigest b d).cfg = s.cfg := rfl
@[simp] theorem setDigest_inputs (b : Bool) (d : Word64) : (s.setDigest b d).inputs = s.inputs := rfl
@[simp] theorem setDigest_shown (b : Bool) (d : Word64) : (s.setDigest b d).shown = s.shown := rfl

/-! ### raise -/

@[simp] theorem raise_c32 (c : Cause) (w : Word32) : (s.raise c w).c32 = s.c32 := rfl
@[simp] theorem raise_c64 (c : Cause) (w : Word32) : (s.raise c w).c64 = s.c64 := rfl
@[simp] theorem raise_status (c : Cause) (w : Word32) : (s.raise c w).status = s.status.raised c := rfl
@[simp] theorem raise_errinfo (c : Cause) (w : Word32) : (s.raise c w).errinfo = w := rfl
@[simp] theorem raise_argOff (c : Cause) (w : Word32) : (s.raise c w).argOff = s.argOff := rfl
@[simp] theorem raise_argLen (c : Cause) (w : Word32) : (s.raise c w).argLen = s.argLen := rfl
@[simp] theorem raise_argSeedLo (c : Cause) (w : Word32) : (s.raise c w).argSeedLo = s.argSeedLo := rfl
@[simp] theorem raise_argSeedHi (c : Cause) (w : Word32) : (s.raise c w).argSeedHi = s.argSeedHi := rfl
@[simp] theorem raise_result (c : Cause) (w : Word32) : (s.raise c w).result = s.result := rfl
@[simp] theorem raise_src (c : Cause) (w : Word32) : (s.raise c w).src = s.src := rfl
@[simp] theorem raise_cfg (c : Cause) (w : Word32) : (s.raise c w).cfg = s.cfg := rfl
@[simp] theorem raise_inputs (c : Cause) (w : Word32) : (s.raise c w).inputs = s.inputs := rfl
@[simp] theorem raise_shown (c : Cause) (w : Word32) : (s.raise c w).shown = s.shown := rfl

/-! ### clearError -/

@[simp] theorem clearError_c32 : (s.clearError).c32 = s.c32 := rfl
@[simp] theorem clearError_c64 : (s.clearError).c64 = s.c64 := rfl
@[simp] theorem clearError_status : (s.clearError).status = s.status.cleared := rfl
@[simp] theorem clearError_errinfo : (s.clearError).errinfo = 0#32 := rfl
@[simp] theorem clearError_argOff : (s.clearError).argOff = s.argOff := rfl
@[simp] theorem clearError_argLen : (s.clearError).argLen = s.argLen := rfl
@[simp] theorem clearError_argSeedLo : (s.clearError).argSeedLo = s.argSeedLo := rfl
@[simp] theorem clearError_argSeedHi : (s.clearError).argSeedHi = s.argSeedHi := rfl
@[simp] theorem clearError_result : (s.clearError).result = s.result := rfl
@[simp] theorem clearError_src : (s.clearError).src = s.src := rfl
@[simp] theorem clearError_cfg : (s.clearError).cfg = s.cfg := rfl
@[simp] theorem clearError_inputs : (s.clearError).inputs = s.inputs := rfl
@[simp] theorem clearError_shown : (s.clearError).shown = s.shown := rfl

/-! ### powerOn -/

@[simp] theorem powerOn_c32 : s.powerOn.c32 = Ctx32.reset 0#32 := rfl
@[simp] theorem powerOn_c64 : s.powerOn.c64 = Ctx64.reset 0#64 := rfl
@[simp] theorem powerOn_status : s.powerOn.status = ⟨false, false, false, 0#4⟩ := rfl
@[simp] theorem powerOn_errinfo : s.powerOn.errinfo = 0#32 := rfl
@[simp] theorem powerOn_argOff : s.powerOn.argOff = 0#32 := rfl
@[simp] theorem powerOn_argLen : s.powerOn.argLen = 0#32 := rfl
@[simp] theorem powerOn_argSeedLo : s.powerOn.argSeedLo = 0#32 := rfl
@[simp] theorem powerOn_argSeedHi : s.powerOn.argSeedHi = 0#32 := rfl
@[simp] theorem powerOn_result : s.powerOn.result = 0#64 := rfl
@[simp] theorem powerOn_src : s.powerOn.src = [] := rfl
@[simp] theorem powerOn_cfg : s.powerOn.cfg = s.cfg := rfl
@[simp] theorem powerOn_inputs : s.powerOn.inputs = s.inputs := rfl
@[simp] theorem powerOn_shown : s.powerOn.shown = s.shown := rfl

/-! ### STATUS -/

variable (st : Status)

@[simp] theorem raised_err (c : Cause) : (st.raised c).err = true := rfl
@[simp] theorem raised_rv (c : Cause) : (st.raised c).rv = st.rv := rfl
@[simp] theorem raised_rw (c : Cause) : (st.raised c).rw = st.rw := rfl
@[simp] theorem raised_cause (c : Cause) : (st.raised c).cause = c.code := rfl
@[simp] theorem cleared_err : st.cleared.err = false := rfl
@[simp] theorem cleared_rv : st.cleared.rv = st.rv := rfl
@[simp] theorem cleared_rw : st.cleared.rw = st.rw := rfl
@[simp] theorem cleared_cause : st.cleared.cause = 0#4 := rfl
@[simp] theorem digestWritten_err (b : Bool) : (st.digestWritten b).err = st.err := rfl
@[simp] theorem digestWritten_rv (b : Bool) : (st.digestWritten b).rv = true := rfl
@[simp] theorem digestWritten_rw (b : Bool) : (st.digestWritten b).rw = b := rfl
@[simp] theorem digestWritten_cause (b : Bool) : (st.digestWritten b).cause = st.cause := rfl
@[simp] theorem code_illegalCommand : Cause.illegalCommand.code = 1#4 := rfl
@[simp] theorem code_boundsViolation : Cause.boundsViolation.code = 2#4 := rfl

end Sys2Proof.Machine
end

