-- ==== Sys2Proof/Laws/Stream.lean ====
section
/-! SUPPORT. The unit loop, the pending buffer, the update and the digest, each by one lemma that says all it does. The
update is stated as a stream (spec/42_update.md R157): the pending bytes followed by the chunk are cut into whole stripes
and a rest. -/

namespace Sys2Proof.Machine

/-! ### The unit loop -/

section Units

variable {α : Type} (f : α → List Byte → α) (size : Nat)

@[simp] theorem foldUnits_zero (acc : α) (bytes : List Byte) : foldUnits f size 0 acc bytes = acc := rfl

theorem foldUnits_succ (k : Nat) (acc : α) (bytes : List Byte) :
    foldUnits f size (k + 1) acc bytes = foldUnits f size k (f acc (bytes.take size)) (bytes.drop size) := rfl

/-- A loop over `j + k` units is a loop over the first `j`, then one over the next `k`. -/
theorem foldUnits_add (j k : Nat) (acc : α) (bytes : List Byte) :
    foldUnits f size (j + k) acc bytes =
      foldUnits f size k (foldUnits f size j acc bytes) (bytes.drop (j * size)) := by
  induction j generalizing acc bytes with
  | zero => simp
  | succ j ih =>
    rw [Nat.succ_add, foldUnits_succ, foldUnits_succ, ih, List.drop_drop]
    congr 2
    rw [Nat.succ_mul, Nat.add_comm]

/-- A loop reads only the bytes of its units. -/
theorem foldUnits_append {k : Nat} (acc : α) {bytes : List Byte} (more : List Byte) (h : k * size ≤ bytes.length) :
    foldUnits f size k acc (bytes ++ more) = foldUnits f size k acc bytes := by
  induction k generalizing acc bytes with
  | zero => rfl
  | succ k ih =>
    have hs : size ≤ bytes.length := by rw [Nat.succ_mul] at h; omega
    rw [foldUnits_succ, foldUnits_succ, List.take_append_of_le_length hs, List.drop_append_of_le_length hs]
    exact ih _ (by rw [List.length_drop]; rw [Nat.succ_mul] at h; omega)

end Units

/-! ### The pending buffer -/

variable {w S : Nat}

@[simp] theorem writePbuf_toList (buf : Vector Byte S) (start : Nat) (bytes : List Byte) :
    (writePbuf buf start bytes).toList = overlay buf.toList start bytes := rfl

@[simp] theorem overlay_empty (buf : List Byte) (start : Nat) : overlay buf start [] = buf := by
  simp [overlay]

/-- What lies before the end of the written bytes. -/
theorem overlay_take {buf : List Byte} {start : Nat} {bytes : List Byte} (h : start + bytes.length ≤ buf.length) :
    (overlay buf start bytes).take (start + bytes.length) = buf.take start ++ bytes := by
  have hb : bytes.take (buf.length - start) = bytes := List.take_of_length_le (by omega)
  rw [overlay, hb]
  exact List.take_left' (by rw [List.length_append, List.length_take]; omega)

/-- Writing up to the end of the buffer. -/
theorem overlay_full {buf : List Byte} {start : Nat} {bytes : List Byte} (h : start + bytes.length = buf.length) :
    overlay buf start bytes = buf.take start ++ bytes := by
  have := overlay_take (buf := buf) (start := start) (bytes := bytes) (by omega)
  rwa [h, List.take_of_length_le (by rw [overlay_length])] at this

@[simp] theorem pending_length (c : Ctx w S) : c.pending.length = c.plen.val := by
  simp only [Ctx.pending, List.length_take, Vector.length_toList]
  exact Nat.min_eq_left c.plen.isLt.le

@[simp] theorem reset_pending [NeZero S] (e : Engine w) (seed : BitVec w) :
    (Ctx.reset (S := S) e seed).pending = [] := by
  rw [← List.length_eq_zero_iff, pending_length]; rfl

/-! ### The update -/

/-- All that steps 2 to 5 do (spec/42_update.md R152 to R157): with `b` the pending bytes followed by the chunk, the
lanes take the `floor(len b / S)` whole stripes of `b` in order, and the rest of `b` becomes the pending bytes. -/
theorem absorb_spec (e : Engine w) (c : Ctx w S) (data : List Byte) :
    (c.absorb e data).seed = c.seed ∧ (c.absorb e data).totalLen = c.totalLen ∧
    (c.absorb e data).lanes =
      foldUnits (stripeMix e) S ((c.plen.val + data.length) / S) c.lanes (c.pending ++ data) ∧
    (c.absorb e data).plen.val = (c.plen.val + data.length) % S ∧
    (c.absorb e data).pending = (c.pending ++ data).drop ((c.plen.val + data.length) / S * S) := by
  have hp := c.plen.isLt
  have hS : 0 < S := Nat.zero_lt_of_lt hp
  by_cases fits : c.plen.val + data.length < S
  · rw [Ctx.absorb, dif_pos fits, Nat.div_eq_of_lt fits, Nat.mod_eq_of_lt fits]
    refine ⟨rfl, rfl, rfl, rfl, ?_⟩
    simp only [Ctx.pending, writePbuf_toList, Nat.zero_mul, List.drop_zero]
    exact overlay_take (by simp; omega)
  · rw [Ctx.absorb, dif_neg fits]
    have hpend : ∀ (c' : Ctx w S) (rest : List Byte),
        (c'.keepTail rest).pending = rest.drop (rest.length / S * S) := by
      intro c' rest
      have hlen : (rest.drop (rest.length / S * S)).length = rest.length % S := by
        rw [List.length_drop]
        have := Nat.div_add_mod rest.length S
        rw [Nat.mul_comm] at this
        omega
      have := overlay_take (buf := c'.pbuf.toList) (start := 0) (bytes := rest.drop (rest.length / S * S))
        (by rw [hlen, Vector.length_toList]; have := Nat.mod_lt rest.length hS; omega)
      rw [Nat.zero_add, hlen] at this
      simpa [Ctx.pending, Ctx.keepTail] using this
    by_cases h0 : c.plen.val = 0
    · have hnil : c.pending = [] := by rw [← List.length_eq_zero_iff, pending_length, h0]
      have hhead : c.headLength = 0 := if_pos h0
      have hdone : c.completePending e data = c := if_pos h0
      refine ⟨by rw [hdone]; rfl, by rw [hdone]; rfl, ?_, ?_, ?_⟩
      · rw [hhead, hdone, hnil, h0, Nat.zero_add]; rfl
      · rw [hhead, h0, Nat.zero_add]; rfl
      · rw [hpend, hhead, hnil, h0, Nat.zero_add]; rfl
    · have hhead : c.headLength = S - c.plen.val := if_neg h0
      have hrest : (data.drop c.headLength).length = c.plen.val + data.length - S := by
        rw [List.length_drop, hhead]; omega
      have hdiv : (c.plen.val + data.length) / S = 1 + (c.plen.val + data.length - S) / S := by
        conv_lhs => rw [show c.plen.val + data.length = c.plen.val + data.length - S + S by omega]
        rw [Nat.add_div_right _ hS, Nat.add_comm]
      have hmod : (c.plen.val + data.length) % S = (c.plen.val + data.length - S) % S := by
        conv_lhs => rw [show c.plen.val + data.length = c.plen.val + data.length - S + S by omega]
        rw [Nat.add_mod_right]
      have htake : (c.pending ++ data).take S = c.pending ++ data.take c.headLength := by
        rw [List.take_append, pending_length, List.take_of_length_le (by rw [pending_length]; omega), hhead]
      have hdrop : (c.pending ++ data).drop S = data.drop c.headLength := by
        rw [List.drop_append, pending_length, List.drop_of_length_le (by rw [pending_length]; omega), hhead,
          List.nil_append]
      have hfull : (writePbuf c.pbuf c.plen.val (data.take c.headLength)).toList =
          c.pending ++ data.take c.headLength := by
        rw [writePbuf_toList, overlay_full]
        · rfl
        · rw [Vector.length_toList, List.length_take, hhead]; omega
      have hdone : c.completePending e data =
          { c with pbuf := writePbuf c.pbuf c.plen.val (data.take c.headLength),
                   lanes := stripeMix e c.lanes (c.pending ++ data.take c.headLength) } := by
        rw [Ctx.completePending, if_neg h0]
        simp only [hfull]
        rfl
      refine ⟨by rw [hdone]; rfl, by rw [hdone]; rfl, ?_, ?_, ?_⟩
      · rw [hdiv, Nat.add_comm 1, foldUnits_succ, htake, hdrop, hdone, ← hrest]; rfl
      · rw [hmod, ← hrest]; rfl
      · rw [hpend, hrest, hdiv, Nat.add_mul, Nat.one_mul, ← List.drop_drop, hdrop]

/-- All that `UpdateCore` does to the common fields. -/
theorem update_spec (e : Engine w) (c : Ctx w S) (data : List Byte) :
    (c.update e data).seed = c.seed ∧ (c.update e data).totalLen = c.totalLen + BitVec.ofNat 64 data.length ∧
    (c.update e data).lanes =
      foldUnits (stripeMix e) S ((c.plen.val + data.length) / S) c.lanes (c.pending ++ data) ∧
    (c.update e data).plen.val = (c.plen.val + data.length) % S ∧
    (c.update e data).pending = (c.pending ++ data).drop ((c.plen.val + data.length) / S * S) :=
  absorb_spec e (c.addLength data.length) data

/-- All that `UpdateCore` does to LARGE. -/
theorem update32_large (c : Ctx32) (data : List Byte) :
    (c.update data).large = (c.large || decide (16 ≤ (c.totalLen + BitVec.ofNat 64 data.length).toNat)) := rfl

/-! ### The digest -/

/-- All that `DigestCore(C32)` reads: LARGE, the lanes, TOTAL_LEN and the pending bytes. -/
theorem digestCore32_eq (c : Ctx32) :
    digestCore32 c = avalanche xh32 (foldTail32
      ((if c.large = true then converge c.lanes else c.lanes.v3 + xh32.prime5) + c.totalLen.setWidth 32) c.pending) :=
  rfl

/-- All that `DigestCore(C64)` reads: the lanes, TOTAL_LEN and the pending bytes. -/
theorem digestCore64_eq (c : Ctx64) :
    digestCore64 c = avalanche xh64 (foldTail64
      ((if 32 ≤ c.totalLen.toNat then convergeMerge64 c.lanes else c.lanes.v3 + xh64.prime5) + c.totalLen)
      c.pending) := by
  unfold digestCore64 large64
  by_cases h : 32 ≤ c.totalLen.toNat <;> simp [h]

end Sys2Proof.Machine
end

