-- ==== Sys2Proof/Laws/Exec.lean ====
section
/-! SUPPORT. What the shared operations, the commands and the step can answer, said once each. -/

namespace Sys2Proof.Machine

variable {s t : State}

/-! ### The shared operations -/

/-- All the error lock can do (spec/60_exceptions.md R206). -/
theorem unlessLocked_locked (h : s.status.err = true) (effect : Answer) : s.unlessLocked effect = .next s := by
  rw [State.unlessLocked, if_pos h]

theorem unlessLocked_open (h : s.status.err = false) (effect : Answer) : s.unlessLocked effect = effect := by
  rw [State.unlessLocked, if_neg (by simp [h])]

/-- All that preparing a chunk can do (spec/60_exceptions.md R202; log 2). -/
theorem withChunk_cases (s : State) (i : Instr) (effect : List Byte → Answer) :
    (s.chunkInBounds = false ∧ s.withChunk i effect = .next (s.raise .boundsViolation (encode i))) ∨
    (s.chunkInBounds = true ∧ ∃ addr, s.chunk = .error addr ∧
      s.withChunk i effect = .fault (.unwrittenSrcByte addr)) ∨
    (s.chunkInBounds = true ∧ ∃ data, s.chunk = .ok data ∧ s.withChunk i effect = effect data) := by
  cases hb : s.chunkInBounds with
  | false => exact .inl ⟨rfl, by rw [State.withChunk, if_neg (by simp [hb])]⟩
  | true =>
    cases hc : s.chunk with
    | error addr => exact .inr (.inl ⟨rfl, addr, rfl, by rw [State.withChunk, if_pos hb, hc]⟩)
    | ok data => exact .inr (.inr ⟨rfl, data, rfl, by rw [State.withChunk, if_pos hb, hc]⟩)

/-- When a chunk command with a simple effect answers a next state, it raised, or it applied the effect to its bytes. -/
theorem withChunk_next {i : Instr} {effect : List Byte → State}
    (h : s.withChunk i (fun data => .next (effect data)) = .next t) :
    (s.chunkInBounds = false ∧ t = s.raise .boundsViolation (encode i)) ∨
    (s.chunkInBounds = true ∧ ∃ data, s.chunk = .ok data ∧ t = effect data) := by
  rcases withChunk_cases s i (fun data => .next (effect data)) with ⟨hb, he⟩ | ⟨-, _, -, he⟩ | ⟨hb, data, hc, he⟩
  · rw [he] at h; cases h; exact .inl ⟨hb, rfl⟩
  · rw [he] at h; cases h
  · rw [he] at h; cases h; exact .inr ⟨hb, data, hc, rfl⟩

/-- The chunk of a command has ARG_LEN bytes. -/
theorem chunk_length {data : List Byte} (h : s.chunk = .ok data) : data.length = s.argLen.toNat :=
  ((readRange_ok_iff _ _ _ _).mp h).1

/-! ### The commands -/

/-- The next states of a command that runs to its effect on an unlocked block. -/
inductive Ran : Instr → State → State → Prop
  | reset32 (s : State) : Ran .reset32 s (s.setC32 (Ctx32.reset s.seed32))
  | reset64 (s : State) : Ran .reset64 s (s.setC64 (Ctx64.reset s.seed64))
  | update32 (s : State) (data : _) : s.chunk = .ok data → Ran .update32 s (s.setC32 (s.c32.update data))
  | update64 (s : State) (data : _) : s.chunk = .ok data → Ran .update64 s (s.setC64 (Ctx64.update s.c64 data))
  | digest32 (s : State) : Ran .digest32 s s.digestC32
  | digest64 (s : State) : Ran .digest64 s s.digestC64
  | hash32 (s : State) (data : _) : s.chunk = .ok data →
      Ran .hash32 s (s.setC32 ((Ctx32.reset s.seed32).update data)).digestC32
  | hash64 (s : State) (data : _) : s.chunk = .ok data →
      Ran .hash64 s (s.setC64 (Ctx64.update (Ctx64.reset s.seed64) data)).digestC64

/-- All that a command which answers a next state can have done: cleared the error, been discarded by the lock, raised
BOUNDS_VIOLATION, or run. -/
theorem exec_next {i : Instr} (h : exec i s = .next t) :
    (i = .clrerr ∧ t = s.clearError) ∨
    (i ≠ .clrerr ∧ s.status.err = true ∧ t = s) ∨
    (s.status.err = false ∧ readsChunk i = true ∧ s.chunkInBounds = false ∧
      t = s.raise .boundsViolation (encode i)) ∨
    (s.status.err = false ∧ (readsChunk i = true → s.chunkInBounds = true) ∧ Ran i s t) := by
  by_cases hi : i = .clrerr
  · subst hi; cases h; exact .inl ⟨rfl, rfl⟩
  refine .inr ?_
  cases he : s.status.err with
  | true =>
    refine .inl ⟨hi, rfl, ?_⟩
    cases i <;> first
      | exact absurd rfl hi
      | (simp only [exec, execReset32, execReset64, execUpdate32, execUpdate64, execDigest32, execDigest64,
          execHash32, execHash64, unlessLocked_locked he] at h; cases h; rfl)
  | false =>
    refine .inr ?_
    cases i <;> simp only [exec, execReset32, execReset64, execUpdate32, execUpdate64, execDigest32, execDigest64,
      execHash32, execHash64, unlessLocked_open he] at h
    case clrerr => exact absurd rfl hi
    case reset32 => cases h; exact .inr ⟨rfl, nofun, .reset32 s⟩
    case reset64 => cases h; exact .inr ⟨rfl, nofun, .reset64 s⟩
    case digest32 => cases h; exact .inr ⟨rfl, nofun, .digest32 s⟩
    case digest64 => cases h; exact .inr ⟨rfl, nofun, .digest64 s⟩
    case update32 =>
      rcases withChunk_next h with ⟨hb, rfl⟩ | ⟨hb, data, hc, rfl⟩
      · exact .inl ⟨rfl, rfl, hb, rfl⟩
      · exact .inr ⟨rfl, fun _ => hb, .update32 s data hc⟩
    case update64 =>
      rcases withChunk_next h with ⟨hb, rfl⟩ | ⟨hb, data, hc, rfl⟩
      · exact .inl ⟨rfl, rfl, hb, rfl⟩
      · exact .inr ⟨rfl, fun _ => hb, .update64 s data hc⟩
    case hash32 =>
      rcases withChunk_next h with ⟨hb, rfl⟩ | ⟨hb, data, hc, rfl⟩
      · exact .inl ⟨rfl, rfl, hb, rfl⟩
      · exact .inr ⟨rfl, fun _ => hb, .hash32 s data hc⟩
    case hash64 =>
      rcases withChunk_next h with ⟨hb, rfl⟩ | ⟨hb, data, hc, rfl⟩
      · exact .inl ⟨rfl, rfl, hb, rfl⟩
      · exact .inr ⟨rfl, fun _ => hb, .hash64 s data hc⟩

/-! ### The inputs and the step -/

/-- The next states of one input. -/
inductive Performed : Access → State → State → Prop
  | regRead (s : State) (offset : _) : Performed (.regRead offset 4) s (s.showValue (.reg (s.regValue (regAt offset))))
  | command (s : State) (offset : _) (c : _) (i : _) (t : _) : regAt offset = .cmd → decode c = .ok i → exec i s = .next t →
      Performed (.regWrite offset 4 c) s t
  | illegal (s : State) (offset : _) (c : _) (r : _) : regAt offset = .cmd → decode c = .error r → s.status.err = false →
      Performed (.regWrite offset 4 c) s (s.raise .illegalCommand c)
  | discarded (s : State) (offset : _) (c : _) (r : _) : regAt offset = .cmd → decode c = .error r → s.status.err = true →
      Performed (.regWrite offset 4 c) s s
  | argOff (s : State) (offset : _) (v : _) : regAt offset = .argOff → Performed (.regWrite offset 4 v) s (s.setArgOff v)
  | argLen (s : State) (offset : _) (v : _) : regAt offset = .argLen → Performed (.regWrite offset 4 v) s (s.setArgLen v)
  | argSeedLo (s : State) (offset : _) (v : _) : regAt offset = .argSeedLo → Performed (.regWrite offset 4 v) s (s.setArgSeedLo v)
  | argSeedHi (s : State) (offset : _) (v : _) : regAt offset = .argSeedHi → Performed (.regWrite offset 4 v) s (s.setArgSeedHi v)
  | ignored (s : State) (offset : _) (v : _) : regAt offset ∈ [.status, .errinfo, .resultLo, .resultHi, .reserved] →
      Performed (.regWrite offset 4 v) s s
  | srcRead (s : State) (addr : _) (b : _) : addr < s.cfg.srcBytes → s.src.read addr = some b →
      Performed (.srcRead addr) s (s.showValue (.src b))
  | srcWrite (s : State) (addr : _) (v : _) : addr < s.cfg.srcBytes →
      Performed (.srcWrite addr v) s (s.setSrc (s.src.write addr v))
  | powerOn (s : State) : Performed .powerOn s s.powerOn

theorem regAccessDefined_iff (offset bytes : Nat) :
    regAccessDefined offset bytes = true ↔ bytes = 4 ∧ offset % 4 = 0 ∧ offset < 0x40 := by
  simp [regAccessDefined, and_assoc]

/-- The only offset of CMD is 0. -/
theorem regAt_cmd_iff (offset : Nat) : regAt offset = .cmd ↔ offset = 0 := by
  constructor
  · intro h; unfold regAt at h; split at h <;> first | rfl | cases h
  · rintro rfl; rfl

/-- All that one input which answers a next state can have done. -/
theorem perform_next {a : Access} (h : s.perform a = .next t) : Performed a s t := by
  cases a with
  | regRead offset bytes =>
    simp only [State.perform] at h
    split at h
    · rename_i hd
      obtain ⟨rfl, -⟩ := (regAccessDefined_iff _ _).mp hd
      cases h; exact .regRead s offset
    · cases h
  | regWrite offset bytes v =>
    simp only [State.perform] at h
    split at h
    · rename_i hd
      obtain ⟨rfl, -⟩ := (regAccessDefined_iff _ _).mp hd
      cases hr : regAt offset <;> simp only [hr, State.writeReg] at h
      case cmd =>
        simp only [State.command] at h
        split at h
        · exact .command s offset v _ t hr ‹_› h
        · rename_i r hdec
          cases he : s.status.err with
          | true =>
            rw [State.illegalCommand, unlessLocked_locked he] at h
            cases h; exact .discarded s offset v r hr hdec he
          | false =>
            rw [State.illegalCommand, unlessLocked_open he] at h
            cases h; exact .illegal s offset v r hr hdec he
      case argOff => cases h; exact .argOff s offset v hr
      case argLen => cases h; exact .argLen s offset v hr
      case argSeedLo => cases h; exact .argSeedLo s offset v hr
      case argSeedHi => cases h; exact .argSeedHi s offset v hr
      all_goals (cases h; exact .ignored s offset v (by simp [hr]))
    · cases h
  | srcRead addr =>
    simp only [State.perform] at h
    split at h
    · rename_i hd
      simp only [State.hostSrcRead] at h
      split at h
      · cases h; exact .srcRead s addr _ (by simpa [srcAccessDefined] using hd) ‹_›
      · cases h
    · cases h
  | srcWrite addr v =>
    simp only [State.perform] at h
    split at h
    · rename_i hd
      cases h; exact .srcWrite s addr v (by simpa [srcAccessDefined] using hd)
    · cases h
  | powerOn => cases h; exact .powerOn s

/-- All the step can do when it answers a next state: nothing when no input is left, else its first input. -/
theorem step_next (h : step s = .next t) :
    (s.inputs = [] ∧ t = s) ∨
    ∃ a later, s.inputs = a :: later ∧ Performed a (s.setInputs later) t := by
  cases hi : s.inputs with
  | nil =>
    simp only [step, State.fetch, hi] at h
    cases h; exact .inl ⟨rfl, rfl⟩
  | cons a later =>
    simp only [step, State.fetch, hi] at h
    exact .inr ⟨a, later, rfl, perform_next h⟩

/-- The step on a non-empty list of inputs is its first input. -/
theorem step_cons {a : Access} {later : List Access} (h : s.inputs = a :: later) :
    step s = (s.setInputs later).perform a := by
  simp only [step, State.fetch, h]

end Sys2Proof.Machine
end

