-- ==== Sys2Proof/Machine/HostProgram.lean ====
section
/-! DEFINITION. The host-program syntax and its pseudo-instructions, as the accesses they stand for
(spec/30_encoding.md R79, R80). -/

namespace Sys2Proof.Machine

/-- A line of a host program (spec/30_encoding.md R79, R80). -/
inductive Line where
  /-- `SRCW a, b0 b1 ... bk` -/
  | srcw (addr : Nat) (bytes : List Byte)
  /-- `WR REG, v` -/
  | wr (r : Reg) (v : Word32)
  /-- `RD REG` -/
  | rd (r : Reg)
  /-- `CMD m`, also written as the bare mnemonic -/
  | cmd (m : Instr)
  /-- `SEED v` -/
  | seed (v : Word64)
  /-- `RANGE off, n` -/
  | range (off n : Word32)
  /-- `RESET32 s` -/
  | reset32 (seed : Word64)
  /-- `RESET64 s` -/
  | reset64 (seed : Word64)
  /-- `UPDATE32 off, n` -/
  | update32 (off n : Word32)
  /-- `UPDATE64 off, n` -/
  | update64 (off n : Word32)
  /-- `HASH32 s, off, n` -/
  | hash32 (seed : Word64) (off n : Word32)
  /-- `HASH64 s, off, n` -/
  | hash64 (seed : Word64) (off n : Word32)
  /-- `RDRESULT` -/
  | rdresult
  deriving DecidableEq, Repr

/-- One 32-bit host write of a register (spec/30_encoding.md R79). -/
def writeReg32 (r : Reg) (v : Word32) : Access := .regWrite r.offset 4 v

/-- One 32-bit host read of a register (spec/30_encoding.md R79). -/
def readReg32 (r : Reg) : Access := .regRead r.offset 4

/-- `SRCW`: one byte write per byte, in order (spec/30_encoding.md R79). -/
def srcWrites (addr : Nat) : List Byte → List Access
  | [] => []
  | b :: rest => .srcWrite addr b :: srcWrites (addr + 1) rest

/-- `CMD m` is a write of m's word to CMD (spec/30_encoding.md R79). -/
def cmdAccess (m : Instr) : Access := writeReg32 .cmd (encode m)

/-- `SEED v` (spec/30_encoding.md R80). -/
def seedAccesses (v : Word64) : List Access :=
  [writeReg32 .argSeedLo (v.extractLsb' 0 32), writeReg32 .argSeedHi (v.extractLsb' 32 32)]

/-- `RANGE off, n` (spec/30_encoding.md R80). -/
def rangeAccesses (off n : Word32) : List Access := [writeReg32 .argOff off, writeReg32 .argLen n]

/-- The accesses of a line, in order (spec/30_encoding.md R79, R80). -/
def Line.expand : Line → List Access
  | .srcw addr bytes => srcWrites addr bytes
  | .wr r v => [writeReg32 r v]
  | .rd r => [readReg32 r]
  | .cmd m => [cmdAccess m]
  | .seed v => seedAccesses v
  | .range off n => rangeAccesses off n
  | .reset32 v => seedAccesses v ++ [cmdAccess .reset32]
  | .reset64 v => seedAccesses v ++ [cmdAccess .reset64]
  | .update32 off n => rangeAccesses off n ++ [cmdAccess .update32]
  | .update64 off n => rangeAccesses off n ++ [cmdAccess .update64]
  | .hash32 v off n => seedAccesses v ++ rangeAccesses off n ++ [cmdAccess .hash32]
  | .hash64 v off n => seedAccesses v ++ rangeAccesses off n ++ [cmdAccess .hash64]
  | .rdresult => [readReg32 .resultLo, readReg32 .resultHi]

/-- `s` with a host program given to it after the inputs it already has (spec/70_reset_and_hazards.md R235; log 3). -/
def State.withProgram (s : State) (p : List Line) : State :=
  s.setInputs (s.inputs ++ p.flatMap Line.expand)

end Sys2Proof.Machine
end

