-- ==== Sys2Proof/Laws/PerInstr.lean ====
section
/-! SUPPORT. The statement that is made for every command: the bits of its table row decode to it, and the host-program
line `CMD m` is one write of its word to CMD (spec/30_encoding.md R73, R79). -/

namespace Sys2Proof.Laws.TableRow

/-- The 32 bits of the command's word decode to it, and `CMD m` writes them to offset 0. -/
def Statement (i : Instr) : Prop :=
  decodeTableWord 32 (encode i).toNat = some i ∧
    Machine.Line.expand (.cmd i) = [.regWrite 0 4 (encode i)]

theorem reset32 : Statement .reset32 := ⟨by decide, by decide⟩
theorem update32 : Statement .update32 := ⟨by decide, by decide⟩
theorem digest32 : Statement .digest32 := ⟨by decide, by decide⟩
theorem hash32 : Statement .hash32 := ⟨by decide, by decide⟩
theorem clrerr : Statement .clrerr := ⟨by decide, by decide⟩
theorem reset64 : Statement .reset64 := ⟨by decide, by decide⟩
theorem update64 : Statement .update64 := ⟨by decide, by decide⟩
theorem digest64 : Statement .digest64 := ⟨by decide, by decide⟩
theorem hash64 : Statement .hash64 := ⟨by decide, by decide⟩

end Sys2Proof.Laws.TableRow
end

