-- ==== Sys2Proof/Tests/Slice0.lean ====
section
/-! SUPPORT. The model's own tests: the well-formedness checks, decoding, the datapath and one step per command, with the
expected values of the spec, and for each statement of Certificates/Slice0/Obligations.lean that has hypotheses a theorem
`witness_<statement>` that a concrete state meets them. -/

namespace Sys2Proof.Tests

open Sys2Proof.Machine

/-! ### Small states -/

/-- The next state of an answer, if there is one. -/
def ends : Answer → Option State
  | .next t => some t
  | .fault _ => none
  | .refused _ => none

/-- The fault of an answer, if there is one. -/
def faults : Answer → Option Fault
  | .next _ => none
  | .fault r => some r
  | .refused _ => none

/-- The refusal of an answer, if there is one. -/
def refuses : Answer → Option Refusal
  | .next _ => none
  | .fault _ => none
  | .refused r => some r

/-- The state after reset with "abc" in SRC[0..2] and the chunk [0, 3). -/
def abc : State := { State.reset with src := [(0, 0x61#8), (1, 0x62#8), (2, 0x63#8)], argLen := 3#32 }

/-- The state after reset with a chunk given by ARG_OFF and ARG_LEN; no byte of SRC is written. -/
def ranged (off len : Word32) : State := { State.reset with argOff := off, argLen := len }

/-- The state after a failing UPDATE32 (spec/95_test_vectors.md §2.10): STATUS = 0x21, ERRINFO = 0x2. -/
def locked : State :=
  { State.reset with status := { err := true, rv := false, rw := false, cause := 2#4 }, errinfo := 0x2#32 }

/-- A state about to perform one input. -/
def State.before (s : State) (a : Access) : State := s.setInputs [a]

/-- The bytes 0, 1, ..., n-1 (`D[:n]` of spec/95_test_vectors.md). -/
def counting (n : Nat) : List Byte := (List.range n).map (BitVec.ofNat 8)

/-! ### Well-formedness: an ill-formed term for each check -/

-- spec/20_memory.md R58: 32 bits, aligned, inside 0x00 to 0x3F
theorem test_wf_offset : (Access.regRead 0x40 4).wf Config.atReset = false := by decide
theorem test_wf_alignment : (Access.regWrite 0x12 4 0#32).wf Config.atReset = false := by decide
theorem test_wf_narrow : (Access.regWrite 0x10 2 0#32).wf Config.atReset = false := by decide
theorem test_wf_wide : (Access.regRead 0x20 8).wf Config.atReset = false := by decide
theorem test_wf_last_register : (Access.regRead 0x3C 4).wf Config.atReset = true := by decide
-- spec/20_memory.md R59: below SRC_BYTES
theorem test_wf_src_read : (Access.srcRead 64).wf Config.atReset = false := by decide
theorem test_wf_src_write : (Access.srcWrite 64 0#8).wf Config.atReset = false := by decide
-- spec/00_scope.md R10: 1 to 2^32
theorem test_wf_no_src : ({ srcBytes := 0 } : Config).wf = false := by decide
theorem test_wf_src_too_large : ({ srcBytes := 2 ^ 32 + 1 } : Config).wf = false := by decide
theorem test_wf_src_largest : ({ srcBytes := 2 ^ 32 } : Config).wf = true := by decide
-- spec/30_encoding.md R76: a command has no field that could be out of range
theorem test_wf_command : Instr.clrerr.wf = true := by decide

/-! ### Decoding: words written out from spec/30_encoding.md R71, as {Z, W, OP} -/

theorem test_decode_reset32 : decode 0b0000000000000000000000000000_0_001#32 = .ok .reset32 := by decide
theorem test_decode_reset64 : decode 0b0000000000000000000000000000_1_001#32 = .ok .reset64 := by decide
theorem test_decode_update32 : decode 0b0000000000000000000000000000_0_010#32 = .ok .update32 := by decide
theorem test_decode_update64 : decode 0b0000000000000000000000000000_1_010#32 = .ok .update64 := by decide
theorem test_decode_digest32 : decode 0b0000000000000000000000000000_0_011#32 = .ok .digest32 := by decide
theorem test_decode_digest64 : decode 0b0000000000000000000000000000_1_011#32 = .ok .digest64 := by decide
theorem test_decode_hash32 : decode 0b0000000000000000000000000000_0_100#32 = .ok .hash32 := by decide
theorem test_decode_hash64 : decode 0b0000000000000000000000000000_1_100#32 = .ok .hash64 := by decide
theorem test_decode_clrerr : decode 0b0000000000000000000000000000_0_101#32 = .ok .clrerr := by decide
-- spec/30_encoding.md R75, spec/95_test_vectors.md §2.10
theorem test_decode_clrerr_wide : decode 0x0000000D#32 = .error .clrerrOnC64 := by decide
theorem test_decode_op_zero : decode 0x00000008#32 = .error .opIllegal := by decide
theorem test_decode_op_seven : decode 0x00000007#32 = .error .opIllegal := by decide
theorem test_decode_z_low : decode 0x00000010#32 = .error .zFieldNonzero := by decide
theorem test_decode_z_high : decode 0x80000001#32 = .error .zFieldNonzero := by decide
theorem test_table_word : decodeTableWord 32 0xA = some .update64 ∧ decodeTableWord 32 0xD = none := by decide

/-! ### The datapath: spec/95_test_vectors.md §2.1 to §2.4 -/

theorem test_round32 : round xh32 0xFFFFFFFF#32 0xFFFFFFFF#32 = 0xD3CFBEA2#32 := by decide
theorem test_round64 : round xh64 0#64 1#64 = 0x7F0E345BE3649CD2#64 := by decide
theorem test_stripe_mix32 :
    stripeMix xh32 State.reset.c32.lanes (counting 16) =
      { v1 := 0xF817BCCB#32, v2 := 0x0222719B#32, v3 := 0xD4B0C0A4#32, v4 := 0xDEBB7574#32 } := by decide
theorem test_stripe_mix64 :
    stripeMix xh64 State.reset.c64.lanes (counting 32) =
      { v1 := 0xF4B53B57406B5E99#64, v2 := 0xC3D34B511FC32561#64, v3 := 0xCB26C007C8A1553F#64,
        v4 := 0x9A44D001A7F91C07#64 } := by decide
theorem test_merge_round : mergeRound 0#64 1#64 = 0x9D049A611F451521#64 := by decide
theorem test_fold4x32 : fold4x32 0x165667B5#32 0x03020100#32 = 0x1A1B3573#32 := by decide
theorem test_fold1x32 : fold1x32 0x165667B2#32 0x61#8 = 0x6506CBE8#32 := by decide
theorem test_fold8x64 : fold8x64 0x27D4EB2F165667D1#64 0x0706050403020100#64 = 0x864A3C0F2485FF74#64 := by decide
theorem test_fold4x64 : fold4x64 0x27D4EB2F165667C9#64 0x03020100#32 = 0x5E0201BEC1FBE454#64 := by decide
theorem test_fold1x64 : fold1x64 0x27D4EB2F165667C6#64 0x61#8 = 0xB86597E419D4D215#64 := by decide
theorem test_avalanche32 : avalanche xh32 0x80#32 = 0x078A4DCF#32 := by decide
theorem test_avalanche64 : avalanche xh64 0x80#64 = 0x176E0A82E6C68AA5#64 := by decide

/-! ### The commands: spec/95_test_vectors.md §1.2, §2.5 to §2.10 -/

theorem test_reset32 :
    (ends (exec .reset32 { State.reset with argSeedLo := 1#32, argSeedHi := 0xFFFFFFFF#32 })).map (·.c32.lanes) =
      some { v1 := 0x24234429#32, v2 := 0x85EBCA78#32, v3 := 0x00000001#32, v4 := 0x61C88650#32 } := by decide
theorem test_reset64 :
    (ends (exec .reset64 { State.reset with argSeedLo := 0x89ABCDEF#32, argSeedHi := 0x01234567#32 })).map
        (·.c64.lanes) =
      some { v1 := 0x620D6D56376C83C5#64, v2 := 0xC3D5F3A4B180B93E#64, v3 := 0x0123456789ABCDEF#64,
             v4 := 0x62EBCBB603C00368#64 } := by decide
-- chunk [15, 2] of D[:17] completes a stripe with one byte and leaves one (spec/95_test_vectors.md §2.6)
theorem test_update32_completes :
    (ends (exec .update32 { State.reset with
        c32 := State.reset.c32.update (counting 15), src := [(20, 0x0F#8), (21, 0x10#8)],
        argOff := 20#32, argLen := 2#32 })).map
      (fun t => (t.c32.lanes.v1, t.c32.pending, t.c32.totalLen, t.c32.large)) =
      some (0xF817BCCB#32, [0x10#8], 17#64, true) := by decide
theorem test_update32_bounds :
    (ends (exec .update32 (ranged 0xFFFFFFFF#32 2#32))).map (fun t => (t.status.word, t.errinfo, t.c32)) =
      some (0x21#32, 0x2#32, State.reset.c32) := by decide
theorem test_update64_buffers :
    (ends (exec .update64 abc)).map (fun t => (t.c64.pending, t.c64.totalLen, t.c64.lanes, t.c32)) =
      some ([0x61#8, 0x62#8, 0x63#8], 3#64, State.reset.c64.lanes, State.reset.c32) := by decide
theorem test_update64_unwritten :
    faults (exec .update64 { abc with argLen := 4#32 }) = some (.unwrittenSrcByte 3) := by decide
theorem test_digest32 :
    (ends (exec .digest32 { State.reset with c32 := State.reset.c32.update (counting 17) })).map
      (fun t => (t.result, t.status.word)) = some (0x7C77ADC2#64, 0x2#32) := by decide
theorem test_digest64 :
    (ends (exec .digest64 { State.reset with c64 := Ctx64.update State.reset.c64 (counting 33) })).map
      (fun t => (t.result, t.status.word)) = some (0x0C535D1ACAFB8EAD#64, 0x6#32) := by decide
theorem test_hash32 :
    (ends (exec .hash32 { abc with argSeedLo := 0x89ABCDEF#32, argSeedHi := 0x01234567#32 })).map
      (fun t => (t.result, t.status.word)) = some (0x22159D81#64, 0x2#32) := by decide
theorem test_hash32_high_byte :
    (ends (exec .hash32 { State.reset with src := [(63, 0x80#8)], argOff := 63#32, argLen := 1#32 })).map (·.result) =
      some 0x2DBED8F6#64 := by decide
theorem test_hash64 :
    (ends (exec .hash64 abc)).map (fun t => (t.result, t.status.word)) =
      some (0x44BC2CF5AD770999#64, 0x6#32) := by decide
theorem test_hash64_high_byte :
    (ends (exec .hash64 { State.reset with src := [(63, 0x80#8)], argOff := 63#32, argLen := 1#32 })).map (·.result) =
      some 0x841226287060849F#64 := by decide
theorem test_clrerr : (ends (exec .clrerr locked)).map (fun t => (t.status.word, t.errinfo)) = some (0#32, 0#32) := by
  decide

/-! ### The step -/

-- spec/60_exceptions.md R201: an illegal word
theorem test_step_illegal :
    (ends (step (State.before State.reset (writeCmd 0xFFFFFFFF#32)))).map (fun t => (t.status.word, t.errinfo)) =
      some (0x11#32, 0xFFFFFFFF#32) := by decide
-- spec/60_exceptions.md R206: the lock discards a legal word
theorem test_step_locked :
    ends (step (State.before locked (writeCmd 0x1#32))) = some locked := by decide
-- spec/20_memory.md R58, R59
theorem test_step_refuses_misaligned :
    refuses (step (State.before State.reset (.regRead 0x02 4))) = some (.undefinedRegAccess 0x02 4) := by decide
theorem test_step_refuses_src :
    refuses (step (State.before State.reset (.srcWrite 64 0#8))) = some (.srcAddressOutOfRange 64) := by decide
-- the word the host places runs as the next step
theorem test_fetch_word :
    (ends (step (State.reset.withFetchWord 32 0x4))).map (·.result) = some 0x02CC5D05#64 := by decide
-- spec/30_encoding.md R80
theorem test_expand_hash :
    Line.expand (.hash32 0x0123456789ABCDEF#64 4#32 3#32) =
      [.regWrite 0x18 4 0x89ABCDEF#32, .regWrite 0x1C 4 0x01234567#32, .regWrite 0x10 4 4#32, .regWrite 0x14 4 3#32,
       .regWrite 0x00 4 0x4#32] := by decide
theorem test_expand_srcw :
    Line.expand (.srcw 62 [0x0A#8, 0x0B#8]) = [.srcWrite 62 0x0A#8, .srcWrite 63 0x0B#8] := by decide

/-! ### Witnesses: a concrete case that meets the hypotheses of each statement -/

/-- A clause about an illegal word, unlocked and locked, and one about a command. -/
theorem witness_CommandWordsAreExactlyTheNine :
    (State.before State.reset (writeCmd 0x9#32)).inputs = writeCmd 0x9#32 :: [] ∧ decode 0x9#32 = .ok .reset64 ∧
    (State.before locked (writeCmd 0xD#32)).inputs = writeCmd 0xD#32 :: [] ∧ legalWord 0xD#32 = false ∧
    locked.status.err = true ∧
    (State.before State.reset (writeCmd 0x10#32)).inputs = writeCmd 0x10#32 :: [] ∧ legalWord 0x10#32 = false ∧
    State.reset.status.err = false := by decide

theorem witness_DecodeInvertsEncode : Instr.hash64.wf = true ∧ decode 0xC#32 = .ok .hash64 := by decide

theorem witness_StepRunsDecodedCommand :
    (State.before abc (writeCmd 0xA#32)).inputs = writeCmd 0xA#32 :: [] ∧ decode 0xA#32 = .ok .update64 ∧
    Instr.update64.wf = true := by decide

/-- Each branch of the checks: locked, illegal, out of bounds by one byte, and a command that passes them. -/
theorem witness_ChecksApplyInOrder :
    (State.before locked (writeCmd 0x0#32)).inputs = writeCmd 0x0#32 :: [] ∧ locked.status.err = true ∧
    (State.before State.reset (writeCmd 0x0#32)).inputs = writeCmd 0x0#32 :: [] ∧ legalWord 0x0#32 = false ∧
    (State.before (ranged 65#32 0#32) (writeCmd 0x2#32)).inputs = writeCmd 0x2#32 :: [] ∧
    (ranged 65#32 0#32).cfg.srcBytes < (ranged 65#32 0#32).argOff.toNat + (ranged 65#32 0#32).argLen.toNat ∧
    (State.before (ranged 64#32 0#32) (writeCmd 0x2#32)).inputs = writeCmd 0x2#32 :: [] ∧
    ¬ (ranged 64#32 0#32).cfg.srcBytes < (ranged 64#32 0#32).argOff.toNat + (ranged 64#32 0#32).argLen.toNat ∧
    (State.before locked (writeCmd 0x5#32)).inputs = writeCmd 0x5#32 :: [] := by decide

/-- Each clause, at the last offset and the last byte where there is a range. -/
theorem witness_ErrorLockDiscardsCommands :
    locked.status.err = true ∧ (0x1#32 ≠ 0x5#32) ∧
    (State.before locked (writeCmd 0x1#32)).inputs = [writeCmd 0x1#32] ∧
    (State.before locked (.regWrite 0x10 4 7#32)).inputs = [.regWrite 0x10 4 7#32] ∧
    (State.before locked (.regWrite 0x14 4 7#32)).inputs = [.regWrite 0x14 4 7#32] ∧
    (State.before locked (.regWrite 0x18 4 7#32)).inputs = [.regWrite 0x18 4 7#32] ∧
    (State.before locked (.regWrite 0x1C 4 7#32)).inputs = [.regWrite 0x1C 4 7#32] ∧
    (State.before locked (.srcWrite 63 7#8)).inputs = [.srcWrite 63 7#8] ∧ 63 < locked.cfg.srcBytes ∧
    (State.before { locked with src := [(63, 7#8)] } (.srcRead 63)).inputs = [.srcRead 63] ∧
    Memory.read [(63, 7#8)] 63 = some 7#8 ∧
    (State.before locked (.regRead 0x3C 4)).inputs = [.regRead 0x3C 4] ∧ 0x3C % 4 = 0 ∧ 0x3C < 0x40 := by decide

theorem witness_FirstErrorIsKept :
    (State.before locked (writeCmd 0xFFFFFFFF#32)).inputs = [writeCmd 0xFFFFFFFF#32] ∧ locked.status.err = true ∧
    writeCmd 0xFFFFFFFF#32 ≠ writeCmd 0x00000005#32 ∧ writeCmd 0xFFFFFFFF#32 ≠ .powerOn ∧
    ends (step (State.before locked (writeCmd 0xFFFFFFFF#32))) = some locked := by decide

/-- One byte too far, and the sum that would wrap in 32 bits. -/
theorem witness_BoundsViolationChangesNothingElse :
    State.reset.status.err = false ∧
    ((65#32).setWidth 33 + (0#32).setWidth 33).toNat = Config.atReset.srcBytes + 1 ∧
    Config.atReset.srcBytes < ((0xFFFFFFFF#32).setWidth 33 + (2#32).setWidth 33).toNat := by decide

theorem witness_BoundsSumCannotWrap :
    (ranged 64#32 0#32).argLen = 0#32 ∧ (ranged 64#32 0#32).chunkInBounds = true ∧
    (ranged 65#32 0#32).argLen = 0#32 ∧ (ranged 65#32 0#32).chunkInBounds = false := by decide

/-- "abc" with a fourth byte that is not written, and a host read of the last byte of SRC after reset. -/
theorem witness_UnwrittenByteFaults :
    readsChunk .hash32 = true ∧ abc.status.err = false ∧ (0#32).toNat + (4#32).toNat ≤ abc.cfg.srcBytes ∧
    3 < (0#32).toNat + (4#32).toNat ∧ abc.src.read 3 = none ∧
    (∀ k, (0#32).toNat ≤ k → k < 3 → (abc.src.read k).isSome = true) ∧
    (State.before State.reset (.srcRead 63)).inputs = [.srcRead 63] ∧ 63 < State.reset.cfg.srcBytes ∧
    State.reset.src.read 63 = none :=
  ⟨by decide, by decide, by decide, by decide, by decide, fun k _ hk => by
    have : ∀ j < 3, (abc.src.read j).isSome = true := by decide
    exact this k hk, by decide, by decide, by decide⟩

theorem witness_ClrerrResult :
    State.reset.status.err = false ∧ State.reset.status.cause = 0#4 ∧ State.reset.errinfo = 0#32 ∧
    locked.status.err = true ∧ Instr.digest64 ≠ .clrerr ∧
    locked.status.word = 0x00000021#32 ∧ locked.errinfo = 0x00000002#32 ∧
    (ends (exec .clrerr locked)).isSome = true := by decide

theorem witness_Reset32Result : State.reset.status.err = false := by decide

theorem witness_Reset64Result : abc.status.err = false := by decide

/-- For Update32FollowsPseudocode, Update64FollowsPseudocode, Hash32DigestsItsChunk and Hash64DigestsItsChunk: "abc", and
the empty chunk at the end of SRC. -/
theorem witness_chunk_commands :
    abc.status.err = false ∧ abc.argOff.toNat + abc.argLen.toNat ≤ abc.cfg.srcBytes ∧
    [0x61#8, 0x62#8, 0x63#8].length = abc.argLen.toNat ∧
    (∀ k < abc.argLen.toNat, abc.src.read (abc.argOff.toNat + k) = [0x61#8, 0x62#8, 0x63#8][k]?) ∧
    (ranged 64#32 0#32).status.err = false ∧
    (ranged 64#32 0#32).argOff.toNat + (ranged 64#32 0#32).argLen.toNat ≤ (ranged 64#32 0#32).cfg.srcBytes ∧
    ([] : List Byte).length = (ranged 64#32 0#32).argLen.toNat ∧
    (∀ k < (ranged 64#32 0#32).argLen.toNat,
      (ranged 64#32 0#32).src.read ((ranged 64#32 0#32).argOff.toNat + k) = ([] : List Byte)[k]?) :=
  ⟨by decide, by decide, by decide, by decide, by decide, by decide, by decide, fun k hk => absurd hk (Nat.not_lt_zero k)⟩

/-- For Digest32FollowsPseudocode and Digest64FollowsPseudocode. -/
theorem witness_digest_commands :
    ({ State.reset with c32 := State.reset.c32.update (counting 17) } : State).status.err = false := by decide

theorem witness_HashIsResetUpdateDigest :
    abc.status.err = false ∧ abc.argOff.toNat + abc.argLen.toNat ≤ abc.cfg.srcBytes ∧
    abc.src.written abc.argOff.toNat abc.argLen.toNat ∧ (ranged 65#32 0#32).status.err = false ∧
    (ranged 65#32 0#32).cfg.srcBytes < (ranged 65#32 0#32).argOff.toNat + (ranged 65#32 0#32).argLen.toNat :=
  ⟨by decide, by decide, by unfold Memory.written; decide, by decide, by decide⟩

theorem witness_ZeroLengthUpdateChangesNothing :
    (ranged 64#32 0#32).Inv ∧ (ranged 64#32 0#32).status.err = false ∧ (ranged 64#32 0#32).argLen = 0#32 ∧
    (ranged 64#32 0#32).argOff.toNat ≤ (ranged 64#32 0#32).cfg.srcBytes := by decide

theorem witness_ChunkingInvariance : [counting 7, [], counting 10].flatten.length < 2 ^ 64 := by decide

/-- "abc" about to be taken by UPDATE32, with both contexts holding the empty stream with seed 0. -/
theorem witness_StepsKeepTheStreams :
    (ends (step (State.before abc (writeCmd 0x2#32)))).isSome = true ∧ abc.c32.holdsStream 0#32 [] ∧
    ((State.before abc (writeCmd 0x2#32)).nextStream32 (0#32, [])).2 = [0x61#8, 0x62#8, 0x63#8] ∧
    abc.c64.holdsStream 0#64 [] ∧ ((State.before abc (writeCmd 0xA#32)).nextStream64 (0#64, [])).2.length < 2 ^ 64 :=
  ⟨by decide, ⟨⟨by decide, by decide, by decide, by decide, by decide⟩, by decide⟩, by decide,
   ⟨by decide, by decide, by decide, by decide, by decide⟩, by decide⟩

theorem witness_DigestDependsOnlyOnTheStream :
    [[0x61#8], [0x62#8, 0x63#8]].flatten.length < 2 ^ 64 ∧
    (ends (exec .digest32
      { State.reset with c32 := [[0x61#8], [0x62#8, 0x63#8]].foldl Ctx32.update (Ctx32.reset 0#32) })).isSome = true ∧
    (ends (exec .digest64
      { State.reset with c64 := [[0x61#8], [0x62#8, 0x63#8]].foldl Ctx64.update (Ctx64.reset 0#64) })).isSome = true ∧
    abc.argSeedLo = 0#32 ∧ abc.argSeedHi ++ abc.argSeedLo = 0#64 ∧ abc.status.err = false ∧
    abc.chunk = .ok [[0x61#8], [0x62#8, 0x63#8]].flatten ∧ abc.chunkInBounds = true ∧
    (ends (exec .hash32 abc)).isSome = true ∧ (ends (exec .hash64 abc)).isSome = true := by decide

/-- Two digests of one context with a reset of the other between them. -/
theorem witness_DigestIsIdempotent :
    abc.status.err = false ∧
    ∃ t u v, exec .digest32 abc = .next t ∧ exec .reset64 t = .next u ∧ u.c32 = t.c32 ∧ u.status.err = false ∧
      exec .digest32 u = .next v ∧
    ∃ t u v, exec .digest64 abc = .next t ∧ exec .reset32 t = .next u ∧ u.c64 = t.c64 ∧ u.status.err = false ∧
      exec .digest64 u = .next v :=
  ⟨rfl, _, _, _, rfl, rfl, rfl, rfl, rfl, _, _, _, rfl, rfl, rfl, rfl, rfl⟩

/-- Contexts that differ in a stale byte only. -/
theorem witness_StaleBytesAreNeverRead :
    Ctx.sameButStale State.reset.c32.toCtx { State.reset.c32.toCtx with pbuf := Vector.replicate 16 0xFF#8 } ∧
    State.reset.c32.pbuf ≠ Vector.replicate 16 0xFF#8 ∧
    Ctx.sameButStale State.reset.c64 { State.reset.c64 with pbuf := Vector.replicate 32 0xFF#8 } ∧
    State.reset.c64.pbuf ≠ Vector.replicate 32 0xFF#8 :=
  ⟨⟨rfl, rfl, rfl, rfl, by decide⟩, by decide, ⟨rfl, rfl, rfl, rfl, by decide⟩, by decide⟩

theorem witness_LargeIsSticky :
    (State.before { abc with c32 := abc.c32.update (counting 16) } (writeCmd 0x2#32)).c32.large = true ∧
    (ends (step (State.before { abc with c32 := abc.c32.update (counting 16) } (writeCmd 0x2#32)))).isSome = true ∧
    (ends (step (State.before { abc with c32 := abc.c32.update (counting 16) } (writeCmd 0x1#32)))).map
      (·.c32.large) = some false := by decide

theorem witness_RotlMovesBits : 0 < 31 ∧ 31 < 32 ∧ 0 < 1 ∧ 1 < 64 ∧ 0 < 32 := by decide

theorem witness_LittleEndianAssembly : 1 < [0x01#8, 0x80#8].length ∧ 7 < 8 ∧ le 16 [0x01#8, 0x80#8] = 0x8001#16 := by
  decide

theorem witness_ContextsAreIndependent :
    Instr.hash32 ∈ [Instr.reset32, .update32, .digest32, .hash32, .clrerr] ∧
    Instr.hash64 ∈ [Instr.reset64, .update64, .digest64, .hash64, .clrerr] := by decide

theorem witness_UnusedSeedBitsAreIgnored :
    Instr.hash32 ∈ [Instr.reset32, .hash32] ∧
    Instr.update64 ∈ [Instr.update32, .digest32, .update64, .digest64] := by decide

theorem witness_ArgumentsAreKept :
    (State.before abc (writeCmd 0x4#32)).inputs = [writeCmd 0x4#32] ∧
    (ends (step (State.before abc (writeCmd 0x4#32)))).isSome = true ∧
    (State.before abc (.regWrite 0x10 4 5#32)).inputs = [.regWrite 0x10 4 5#32] ∧
    (State.before abc (.regWrite 0x14 4 5#32)).inputs = [.regWrite 0x14 4 5#32] ∧
    (State.before abc (.regWrite 0x18 4 5#32)).inputs = [.regWrite 0x18 4 5#32] ∧
    (State.before abc (.regWrite 0x1C 4 5#32)).inputs = [.regWrite 0x1C 4 5#32] := by decide

theorem witness_ReadOnlyRegistersIgnoreWrites :
    (State.before abc (.regWrite 0x04 4 5#32)).inputs = [.regWrite 0x04 4 5#32] ∧
    (State.before abc (.regWrite 0x3C 4 5#32)).inputs = [.regWrite 0x3C 4 5#32] := by decide

theorem witness_RegisterReadsReturnTheirValue :
    (State.before locked (.regRead 0x04 4)).inputs = [.regRead 0x04 4] ∧ locked.status.word = 0x21#32 ∧
    (State.before locked (.regRead 0x3C 4)).inputs = [.regRead 0x3C 4] := by decide

/-- The last byte of SRC and the first address past it. -/
theorem witness_HostSrcAccesses :
    (State.before State.reset (.srcWrite 63 7#8)).inputs = [.srcWrite 63 7#8] ∧ 63 < State.reset.cfg.srcBytes ∧
    (State.before { State.reset with src := [(63, 7#8)] } (.srcRead 63)).inputs = [.srcRead 63] ∧
    Memory.read [(63, 7#8)] 63 = some 7#8 ∧
    (State.before State.reset (.srcWrite 64 7#8)).inputs = [.srcWrite 64 7#8] ∧ State.reset.cfg.srcBytes ≤ 64 ∧
    (State.before State.reset (.srcRead 64)).inputs = [.srcRead 64] := by decide

/-- Both sides of the equivalence hold somewhere, and neither does elsewhere. -/
theorem witness_OnlyUndefinedAccessesAreRefused :
    (State.before State.reset (.regRead 0x40 4)).inputs = [.regRead 0x40 4] ∧
    (Access.regRead 0x40 4).wf State.reset.cfg = false ∧
    (refuses (step (State.before State.reset (.regRead 0x40 4)))).isSome = true ∧
    (refuses (step (State.before State.reset (.regRead 0x3C 4)))).isSome = false := by decide

theorem witness_SafeInputsRun :
    (State.before abc (writeCmd 0x4#32)).inputs = [writeCmd 0x4#32] ∧
    (State.before abc (writeCmd 0x4#32)).inputSafe (writeCmd 0x4#32) :=
  ⟨rfl, by decide, fun _ i hi => by
    obtain rfl : Instr.hash32 = i := by
      have : decode 0x4#32 = .ok .hash32 := by decide
      rw [this] at hi; exact Except.ok.inj hi
    intro _ _ _
    show ∀ k < 3, (abc.src.read (0 + k)).isSome = true
    decide⟩

theorem witness_IdleStepChangesNothing : abc.inputs = [] := by decide

/-- HASH64 changes RESULT, RV and RW; power-on clears RV. -/
theorem witness_OnlyDigestAndHashWriteResult :
    (ends (step (State.before abc (writeCmd 0xC#32)))).map (fun t => (decide (t.result = abc.result), t.status.rv)) =
      some (false, true) ∧
    (ends (step (State.before { abc with status := { err := false, rv := true, rw := false, cause := 0#4 } }
      .powerOn))).map (·.status.rv) = some false := by decide

theorem witness_OnlyTheHostWritesSrc :
    (ends (step (State.before abc (.srcWrite 1 7#8)))).map (·.src.read 1) = some (some 7#8) ∧
    abc.src.read 1 = some 0x62#8 ∧
    (ends (step (State.before abc .powerOn))).map (·.src.read 1) = some none := by decide

theorem witness_ResetFrame :
    (ends (exec .reset32 abc)).isSome = true ∧ (ends (exec .reset64 abc)).isSome = true := by decide

/-- Both cases of the frame: the chunk is taken, or it leaves SRC. -/
theorem witness_UpdateFrame :
    (ends (exec .update32 abc)).map (·.status.err) = some false ∧
    (ends (exec .update64 abc)).map (·.status.err) = some false ∧
    (ends (exec .update32 (ranged 65#32 0#32))).map (·.status.err) = some true ∧
    (ends (exec .update64 (ranged 65#32 0#32))).map (·.status.err) = some true := by decide

theorem witness_DigestFrame :
    (ends (exec .digest32 abc)).isSome = true ∧ (ends (exec .digest64 abc)).isSome = true := by decide

theorem witness_HashFrame :
    (ends (exec .hash32 abc)).map (·.status.err) = some false ∧
    (ends (exec .hash64 abc)).map (·.status.err) = some false ∧
    (ends (exec .hash32 (ranged 65#32 0#32))).map (·.status.err) = some true ∧
    (ends (exec .hash64 (ranged 65#32 0#32))).map (·.status.err) = some true := by decide

theorem witness_ClrerrFrame : (ends (exec .clrerr locked)).isSome = true := by decide

theorem witness_PowerOnInputResets : (State.before locked .powerOn).inputs = [.powerOn] := by decide

/-- The invariant holds of states with work to do and of the state of an error. -/
theorem witness_EveryStepKeepsTheInvariant :
    (State.before abc (writeCmd 0x4#32)).Inv ∧ (ends (step (State.before abc (writeCmd 0x4#32)))).isSome = true ∧
    (State.before locked (writeCmd 0x5#32)).Inv ∧
    (ends (step (State.before locked (writeCmd 0x5#32)))).isSome = true := by decide

end Sys2Proof.Tests
end

section
/-! Noninterference: a change of state that the checks in front of a command do not see passes through the command, if
it passes through the command's effect. -/

namespace Sys2Proof.Machine

/-- A change of state that neither the error lock nor the preparation of a chunk sees, and that commutes with error entry
(spec/60_exceptions.md R202, R205, R206). -/
structure UnseenByChecks (f : State → State) : Prop where
  err : ∀ s, (f s).status.err = s.status.err
  chunkInBounds : ∀ s, (f s).chunkInBounds = s.chunkInBounds
  chunk : ∀ s, (f s).chunk = s.chunk
  raise : ∀ s c info, (f s).raise c info = f (s.raise c info)

/-- No check reads the context C32. -/
theorem unseenByChecks_setC32 (c : Ctx32) : UnseenByChecks (·.setC32 c) :=
  ⟨fun _ => rfl, fun _ => rfl, fun _ => rfl, fun _ _ _ => rfl⟩

/-- No check reads the context C64. -/
theorem unseenByChecks_setC64 (c : Ctx64) : UnseenByChecks (·.setC64 c) :=
  ⟨fun _ => rfl, fun _ => rfl, fun _ => rfl, fun _ _ _ => rfl⟩

section
variable {f : State → State} {s : State}

/-- The error lock lets an unseen change pass when the effect behind it does. -/
theorem unlessLocked_mapNext (hf : UnseenByChecks f) {effect changed : Answer} (h : changed = mapNext f effect) :
    (f s).unlessLocked changed = mapNext f (s.unlessLocked effect) := by
  cases he : s.status.err with
  | true =>
    rw [unlessLocked_locked he, unlessLocked_locked ((hf.err s).trans he)]
    rfl
  | false => rw [unlessLocked_open he, unlessLocked_open ((hf.err s).trans he), h]

/-- The preparation of a chunk lets an unseen change pass when the effect on the chunk's bytes does. -/
theorem withChunk_mapNext (hf : UnseenByChecks f) (i : Instr) {effect changed : List Byte → Answer}
    (h : ∀ data, changed data = mapNext f (effect data)) :
    (f s).withChunk i changed = mapNext f (s.withChunk i effect) := by
  rw [State.withChunk, hf.chunkInBounds, hf.chunk]
  rcases withChunk_cases s i effect with ⟨hb, he⟩ | ⟨hb, addr, hc, he⟩ | ⟨hb, data, hc, he⟩
  · rw [he, hb, if_neg Bool.false_ne_true, hf.raise]
    rfl
  · rw [he, hb, if_pos rfl, hc]
    rfl
  · rw [he, hb, if_pos rfl, hc]
    exact h data

end

/-- The commands of C32, and CLRERR, carry a change of C64 through (spec/00_scope.md R7). -/
theorem exec_setC64 {i : Instr} (hi : i ∈ [Instr.reset32, .update32, .digest32, .hash32, .clrerr]) (s : State)
    (c : Ctx64) : exec i (s.setC64 c) = mapNext (·.setC64 c) (exec i s) := by
  have hf := unseenByChecks_setC64 c
  cases i
  case reset32 => exact unlessLocked_mapNext hf rfl
  case update32 => exact unlessLocked_mapNext hf (withChunk_mapNext hf _ fun _ => rfl)
  case digest32 => exact unlessLocked_mapNext hf rfl
  case hash32 => exact unlessLocked_mapNext hf (withChunk_mapNext hf _ fun _ => rfl)
  case clrerr => rfl
  all_goals exact absurd hi (by decide)

/-- The commands of C64, and CLRERR, carry a change of C32 through (spec/00_scope.md R7). -/
theorem exec_setC32 {i : Instr} (hi : i ∈ [Instr.reset64, .update64, .digest64, .hash64, .clrerr]) (s : State)
    (c : Ctx32) : exec i (s.setC32 c) = mapNext (·.setC32 c) (exec i s) := by
  have hf := unseenByChecks_setC32 c
  cases i
  case reset64 => exact unlessLocked_mapNext hf rfl
  case update64 => exact unlessLocked_mapNext hf (withChunk_mapNext hf _ fun _ => rfl)
  case digest64 => exact unlessLocked_mapNext hf rfl
  case hash64 => exact unlessLocked_mapNext hf (withChunk_mapNext hf _ fun _ => rfl)
  case clrerr => rfl
  all_goals exact absurd hi (by decide)

/-- Settles O39: no check in front of a command reads a context, and each command's effect reads and writes its own
context only. -/
theorem contextsAreIndependent : Obligations.ContextsAreIndependent :=
  ⟨fun _ hi s c => exec_setC64 hi s c, fun _ hi s c => exec_setC32 hi s c⟩

end Sys2Proof.Machine
end

section
/-! A write of CMD: the decoder and the encoder are inverse to each other, so an input that runs a command is the write
of that command's word. -/

namespace Sys2Proof.Machine

/-- A word is its three fields, Z first (spec/30_encoding.md R71). -/
theorem fields_append (c : Word32) : zField c ++ BitVec.ofBool (wField c) ++ opField c = c := by
  ext i hi
  simp only [zField, wField, opField, BitVec.getElem_append, BitVec.getElem_extractLsb', BitVec.getElem_ofBool]
  split_ifs with h3 h4
  · simp [BitVec.getLsbD_eq_getElem hi]
  · obtain rfl : i = 3 := by omega
    simp
  · rw [← BitVec.getLsbD_eq_getElem hi]
    congr 1
    omega

theorem decode_encode (i : Instr) : decode (encode i) = .ok i := by
  cases i <;> rfl

/-- The decoder accepts no word but the command's own (spec/30_encoding.md R73, R74). -/
theorem eq_encode_of_decode {c : Word32} {i : Instr} (h : decode c = .ok i) : c = encode i := by
  unfold decode at h
  split at h
  · rename_i hz
    rw [← fields_append c, hz]
    unfold decodeOp at h
    split at h
    all_goals cases h
    all_goals
      rename_i hop hw
      rw [← BitVec.setWidth_eq (opField c), ← BitVec.ofNat_toNat, hop, hw]
      rfl
  · cases h

/-- The step on a write of CMD is the written command, without that input (spec/10_state.md R32). -/
theorem step_writeCmd {s : State} {c : Word32} {later : List Access} (h : s.inputs = writeCmd c :: later) :
    step s = (s.setInputs later).command c :=
  step_cons h

theorem command_of_decode {c : Word32} {i : Instr} (h : decode c = .ok i) (s : State) : s.command c = exec i s := by
  rw [State.command, h]

/-- The word the opcode table's 32 bits stand for is the word itself. -/
theorem tableWord_toNat (c : Word32) : tableWord 32 c.toNat = c := by
  rw [tableWord, Nat.mod_eq_of_lt c.isLt, BitVec.ofNat_toNat, BitVec.setWidth_eq]

/-- Settles O4: the step on a write of CMD runs the word, and the word `withFetchWord` places decodes to the command. -/
theorem stepRunsDecodedCommand : Obligations.StepRunsDecodedCommand := by
  refine ⟨fun s c i later hin hdec _ => ?_, fun s i _ => ?_⟩
  · rw [step_writeCmd hin, command_of_decode hdec]
    rfl
  · have hdec : decode (tableWord 32 (encode i).toNat) = .ok i := by rw [tableWord_toNat, decode_encode]
    rw [step_writeCmd (s := s.withFetchWord 32 (encode i).toNat) rfl, command_of_decode hdec]
    rfl

end Sys2Proof.Machine
end

section
/-! The register window: a 32-bit access at a defined offset is a read or write of the register there. -/

namespace Sys2Proof.Machine

variable {s : State} {offset : Nat} {later : List Access}

@[simp] theorem setInputs_regValue (s : State) (l : List Access) (r : Reg) :
    (s.setInputs l).regValue r = s.regValue r := by
  cases r <;> rfl

theorem step_regWrite {v : Word32} (hd : regAccessDefined offset 4 = true)
    (hin : s.inputs = .regWrite offset 4 v :: later) : step s = (s.setInputs later).writeReg (regAt offset) v := by
  rw [step_cons hin]
  exact if_pos hd

theorem step_regRead (hd : regAccessDefined offset 4 = true) (hin : s.inputs = .regRead offset 4 :: later) :
    step s = .next ((s.setInputs later).showValue (.reg (s.regValue (regAt offset)))) := by
  rw [step_cons hin, ← setInputs_regValue s later]
  exact if_pos hd

/-- The registers a host write does not change (spec/10_state.md R33, R34, R38, R39). -/
theorem writeReg_readOnly {r : Reg} (hr : r ∈ [Reg.status, .errinfo, .resultLo, .resultHi, .reserved]) (s : State)
    (v : Word32) : s.writeReg r v = .next s := by
  cases r
  case status | errinfo | resultLo | resultHi | reserved => rfl
  all_goals exact absurd hr (by decide)

/-- Settles O32: each of the offsets is that of a register which ignores host writes. -/
theorem readOnlyRegistersIgnoreWrites : Obligations.ReadOnlyRegistersIgnoreWrites := by
  intro s v later offset ho hin
  have hro : ∀ o ∈ [0x04, 0x08, 0x0C, 0x20, 0x24, 0x28, 0x2C, 0x30, 0x34, 0x38, 0x3C],
      regAccessDefined o 4 = true ∧ regAt o ∈ [Reg.status, .errinfo, .resultLo, .resultHi, .reserved] := by decide
  obtain ⟨hd, hr⟩ := hro offset ho
  rw [step_regWrite hd hin, writeReg_readOnly hr]
  rfl

/-- The sixteen offsets of the register window, 0x00 to 0x3C (spec/10_state.md R31). -/
def windowOffsets : List Nat := (List.range 16).map (4 * ·)

theorem windowOffsets_defined : ∀ offset ∈ windowOffsets, regAccessDefined offset 4 = true := by decide

/-- Settles O33: the values listed are those of the registers at the sixteen offsets, and a read shows that value. -/
theorem registerReadsReturnTheirValue : Obligations.RegisterReadsReturnTheirValue := by
  intro s later p hp hin
  have hlist : p ∈ windowOffsets.map fun o => (o, s.regValue (regAt o)) := hp
  obtain ⟨offset, ho, rfl⟩ := List.mem_map.mp hlist
  rw [step_regRead (windowOffsets_defined offset ho) hin]
  rfl

/-- STATUS bit by bit; at and past bit 8 it is 0, as CAUSE has four bits (spec/10_state.md R33). -/
theorem Status.word_getLsbD (st : Status) (i : Nat) :
    st.word.getLsbD i =
      if i = 0 then st.err else if i = 1 then st.rv else if i = 2 then st.rw else if i = 3 then false
      else st.cause.getLsbD (i - 4) := by
  change BitVec.getLsbD (w := 24 + 4 + 1 + 1 + 1 + 1) (0#24 ++ st.cause ++ 0#1 ++ BitVec.ofBool st.rw ++
    BitVec.ofBool st.rv ++ BitVec.ofBool st.err) i = _
  simp only [BitVec.getLsbD_append]
  match i with
  | 0 => simp
  | 1 => simp
  | 2 => simp
  | 3 => simp
  | i + 4 => simpa using BitVec.lt_of_getLsbD

/-- Bits 7:4 and up are CAUSE, zero-extended. -/
theorem Status.word_getLsbD_cause (st : Status) (i : Nat) : st.word.getLsbD (4 + i) = st.cause.getLsbD i := by
  rw [Status.word_getLsbD, Nat.add_comm]
  rfl

/-- Settles O34: STATUS is its fields from bit 0 upward, the reserved bits 0. -/
theorem statusWordHasItsFields : Obligations.StatusWordHasItsFields := by
  intro st
  refine ⟨?_, ?_, ?_, ?_, ?_, ?_⟩
  · exact st.word_getLsbD 0
  · exact st.word_getLsbD 1
  · exact st.word_getLsbD 2
  · exact st.word_getLsbD 3
  · ext i hi
    rw [BitVec.getElem_extractLsb', Status.word_getLsbD_cause, BitVec.getLsbD_eq_getElem hi]
  · ext i hi
    rw [BitVec.getElem_extractLsb', show 8 + i = 4 + (4 + i) by omega, Status.word_getLsbD_cause,
      BitVec.getLsbD_of_ge _ _ (by omega), BitVec.getElem_zero]

end Sys2Proof.Machine
end

section
/-! What commands and steps keep: the operands under every written word, and the contexts and RESULT under every input
but a command and power-on. -/

namespace Sys2Proof.Machine

variable {s t : State} {i : Instr}

/-! ### The operands -/

theorem operandsKept_refl (s : State) : s.operandsKept s :=
  ⟨rfl, rfl, rfl, rfl, rfl, rfl, rfl, fun _ => rfl⟩

theorem Ran.operandsKept (h : Ran i s t) : s.operandsKept t := by
  cases h <;> exact operandsKept_refl s

/-- No command writes its operands (spec/10_state.md R40, spec/20_memory.md R51). -/
theorem exec_operandsKept (h : exec i s = .next t) : s.operandsKept t := by
  rcases exec_next h with ⟨-, rfl⟩ | ⟨-, -, rfl⟩ | ⟨-, -, -, rfl⟩ | ⟨-, -, hran⟩
  · exact operandsKept_refl s
  · exact operandsKept_refl t
  · exact operandsKept_refl s
  · exact hran.operandsKept

/-- No word written to CMD changes the operands, an illegal one neither. -/
theorem performed_cmd_operandsKept {c : Word32} (h : Performed (.regWrite 0x00 4 c) s t) : s.operandsKept t := by
  cases h
  case command hexec => exact exec_operandsKept hexec
  case illegal | discarded | ignored => exact operandsKept_refl s
  case argOff hr | argLen hr | argSeedLo hr | argSeedHi hr => exact absurd hr (by decide)

/-- Settles O31: a written word keeps the operands, and the write of an ARG register tests nothing but its offset. -/
theorem argumentsAreKept : Obligations.ArgumentsAreKept := by
  refine ⟨fun s t c later hin h => ?_, fun s v later => ⟨?_, ?_, ?_, ?_⟩⟩
  · rw [step_cons hin] at h
    obtain ⟨hoff, hlen, hlo, hhi, -⟩ := performed_cmd_operandsKept (perform_next h)
    exact ⟨hoff, hlen, hlo, hhi⟩
  · exact step_regWrite rfl
  · exact step_regWrite rfl
  · exact step_regWrite rfl
  · exact step_regWrite rfl

/-! ### The contexts and RESULT -/

/-- The contexts and RESULT, with the STATUS bits that describe RESULT, are as before: what no input but a command and
power-on writes. -/
structure State.DigestsKept (s t : State) : Prop where
  c32 : t.c32 = s.c32
  c64 : t.c64 = s.c64
  result : t.result = s.result
  rv : t.status.rv = s.status.rv
  rw : t.status.rw = s.status.rw

/-- All that a step can do to the contexts and RESULT: power-on, a command, or nothing. -/
theorem step_digestsKept (h : step s = .next t) :
    (∃ later, s.inputs = .powerOn :: later) ∨
    (∃ i later, s.inputs = writeCmd (encode i) :: later ∧ exec i (s.setInputs later) = .next t) ∨
    s.DigestsKept t := by
  rcases step_next h with ⟨-, rfl⟩ | ⟨a, later, hin, hperf⟩
  · exact .inr (.inr ⟨rfl, rfl, rfl, rfl, rfl⟩)
  · cases hperf
    case powerOn => exact .inl ⟨later, hin⟩
    case command offset c i hcmd hdec hexec =>
      obtain rfl := (regAt_cmd_iff offset).mp hcmd
      obtain rfl := eq_encode_of_decode hdec
      exact .inr (.inl ⟨i, later, hin, hexec⟩)
    all_goals exact .inr (.inr ⟨rfl, rfl, rfl, rfl, rfl⟩)

/-- A command that finds LARGE set leaves it set, unless it resets C32 (spec/10_state.md R26). -/
theorem exec_large (h : exec i s = .next t) (hl : s.c32.large = true) :
    t.c32.large = true ∨ i ∈ [Instr.reset32, .hash32] := by
  rcases exec_next h with ⟨-, rfl⟩ | ⟨-, -, rfl⟩ | ⟨-, -, -, rfl⟩ | ⟨-, -, hran⟩
  · exact .inl hl
  · exact .inl hl
  · exact .inl hl
  · cases hran
    case reset32 | hash32 => exact .inr (by decide)
    case update32 data _ =>
      refine .inl ?_
      rw [setC32_c32, update32_large, hl, Bool.true_or]
    all_goals exact .inl hl

/-- Settles O27: RESET32, HASH32 and power-on are the only inputs that can clear LARGE. -/
theorem largeIsSticky : Obligations.LargeIsSticky := by
  intro s t hl h
  rcases step_digestsKept h with ⟨later, hin⟩ | ⟨i, later, hin, hexec⟩ | hkept
  · exact .inr ⟨_, later, hin, by decide⟩
  · refine (exec_large hexec hl).imp_right fun hi => ⟨_, later, hin, ?_⟩
    have hwords : ∀ j ∈ [Instr.reset32, .hash32],
        writeCmd (encode j) ∈ [writeCmd 0x1#32, writeCmd 0x4#32, Access.powerOn] := by decide
    exact hwords i hi
  · exact .inl (hkept.c32 ▸ hl)

/-- All that a command can do to RESULT, RV and RW: nothing, or, on an unlocked block, write a digest and set RV
(spec/10_state.md R33, R38). -/
theorem exec_result (h : exec i s = .next t) :
    (t.result = s.result ∧ t.status.rv = s.status.rv ∧ t.status.rw = s.status.rw) ∨
    (s.status.err = false ∧ i ∈ [Instr.digest32, .hash32, .digest64, .hash64] ∧ t.status.rv = true) := by
  rcases exec_next h with ⟨-, rfl⟩ | ⟨-, -, rfl⟩ | ⟨-, -, -, rfl⟩ | ⟨hopen, -, hran⟩
  · exact .inl ⟨rfl, rfl, rfl⟩
  · exact .inl ⟨rfl, rfl, rfl⟩
  · exact .inl ⟨rfl, rfl, rfl⟩
  · cases hran
    case digest32 | hash32 | digest64 | hash64 => exact .inr ⟨hopen, by decide, rfl⟩
    all_goals exact .inl ⟨rfl, rfl, rfl⟩

/-- Settles O41: power-on and a digest written on an unlocked block are the only changes, and the latter sets RV. -/
theorem onlyDigestAndHashWriteResult : Obligations.OnlyDigestAndHashWriteResult := by
  intro s t h
  have kept (hres : t.result = s.result) (hrv : t.status.rv = s.status.rv) (hrw : t.status.rw = s.status.rw) :
      ¬ (t.result ≠ s.result ∨ t.status.rv ≠ s.status.rv ∨ t.status.rw ≠ s.status.rw) := by
    simp [hres, hrv, hrw]
  rcases step_digestsKept h with ⟨later, hin⟩ | ⟨i, later, hin, hexec⟩ | hkept
  · exact ⟨fun _ => ⟨_, later, hin, .inl rfl⟩, fun _ => .inr ⟨later, hin⟩⟩
  · rcases exec_result hexec with ⟨hres, hrv, hrw⟩ | ⟨hopen, hi, hset⟩
    · exact ⟨fun hne => absurd hne (kept hres hrv hrw), fun hset => .inl (hrv.trans hset)⟩
    · have hwords : ∀ j ∈ [Instr.digest32, .hash32, .digest64, .hash64],
          writeCmd (encode j) ∈ [writeCmd 0x3#32, writeCmd 0x4#32, writeCmd 0xB#32, writeCmd 0xC#32] := by decide
      exact ⟨fun _ => ⟨_, later, hin, .inr ⟨hopen, hwords i hi⟩⟩, fun _ => .inl hset⟩
  · exact ⟨fun hne => absurd hne (kept hkept.result hkept.rv hkept.rw), fun hset => .inl (hkept.rv.trans hset)⟩

end Sys2Proof.Machine
end

section
/-! What commands do not read: the seed registers they have no use for, and the stale bytes of PBUF. -/

namespace Sys2Proof.Machine

/-! ### The seed registers -/

/-- No check reads ARG_SEED_LO. -/
theorem unseenByChecks_setArgSeedLo (v : Word32) : UnseenByChecks (·.setArgSeedLo v) :=
  ⟨fun _ => rfl, fun _ => rfl, fun _ => rfl, fun _ _ _ => rfl⟩

/-- No check reads ARG_SEED_HI. -/
theorem unseenByChecks_setArgSeedHi (v : Word32) : UnseenByChecks (·.setArgSeedHi v) :=
  ⟨fun _ => rfl, fun _ => rfl, fun _ => rfl, fun _ _ _ => rfl⟩

/-- Two changes that no check sees, one after the other, are such a change. -/
theorem UnseenByChecks.comp {f g : State → State} (hf : UnseenByChecks f) (hg : UnseenByChecks g) :
    UnseenByChecks fun s => f (g s) where
  err s := (hf.err _).trans (hg.err s)
  chunkInBounds s := (hf.chunkInBounds _).trans (hg.chunkInBounds s)
  chunk s := (hf.chunk _).trans (hg.chunk s)
  raise s c info := by rw [hf.raise, hg.raise]

/-- The seed of C32 is ARG_SEED_LO alone (spec/10_state.md R37). -/
theorem exec_setArgSeedHi {i : Instr} (hi : i ∈ [Instr.reset32, .hash32]) (s : State) (v : Word32) :
    exec i (s.setArgSeedHi v) = mapNext (·.setArgSeedHi v) (exec i s) := by
  have hf := unseenByChecks_setArgSeedHi v
  cases i
  case reset32 => exact unlessLocked_mapNext hf rfl
  case hash32 => exact unlessLocked_mapNext hf (withChunk_mapNext hf _ fun _ => rfl)
  all_goals exact absurd hi (by decide)

/-- UPDATE and DIGEST have no seed operand (spec/30_encoding.md R76). -/
theorem exec_setArgSeed {i : Instr} (hmem : i ∈ [Instr.update32, .digest32, .update64, .digest64]) (s : State)
    (lo hi : Word32) : exec i ((s.setArgSeedLo lo).setArgSeedHi hi) =
      mapNext (fun t => (t.setArgSeedLo lo).setArgSeedHi hi) (exec i s) := by
  have hf := (unseenByChecks_setArgSeedHi hi).comp (unseenByChecks_setArgSeedLo lo)
  cases i
  case update32 => exact unlessLocked_mapNext hf (withChunk_mapNext hf _ fun _ => rfl)
  case update64 => exact unlessLocked_mapNext hf (withChunk_mapNext hf _ fun _ => rfl)
  case digest32 => exact unlessLocked_mapNext hf rfl
  case digest64 => exact unlessLocked_mapNext hf rfl
  all_goals exact absurd hmem (by decide)

/-- Settles O40: no check reads a seed register, and each command's effect reads only its own seed, if it has one. -/
theorem unusedSeedBitsAreIgnored : Obligations.UnusedSeedBitsAreIgnored :=
  ⟨fun _ hmem s v => exec_setArgSeedHi hmem s v, fun _ hmem s lo hi => exec_setArgSeed hmem s lo hi⟩

/-! ### The stale bytes of PBUF -/

/-- An update reads of PBUF only the pending bytes, so it keeps two contexts equal but for stale bytes. -/
theorem sameButStale_update {w S : Nat} (e : Engine w) {c d : Ctx w S} (h : c.sameButStale d) (data : List Byte) :
    (c.update e data).sameButStale (d.update e data) := by
  obtain ⟨hseed, hlanes, htotal, hplen, hpending⟩ := h
  obtain ⟨cseed, ctotal, clanes, cplen, cpending⟩ := update_spec e c data
  obtain ⟨dseed, dtotal, dlanes, dplen, dpending⟩ := update_spec e d data
  refine ⟨?_, ?_, ?_, Fin.ext ?_, ?_⟩
  · rw [cseed, dseed, hseed]
  · rw [clanes, dlanes, hplen, hlanes, hpending]
  · rw [ctotal, dtotal, htotal]
  · rw [cplen, dplen, hplen]
  · rw [cpending, dpending, hplen, hpending]

theorem digestCore32_congr {c d : Ctx32} (h : c.toCtx.sameButStale d.toCtx) (hlarge : c.large = d.large) :
    digestCore32 c = digestCore32 d := by
  obtain ⟨-, hlanes, htotal, -, hpending⟩ := h
  rw [digestCore32_eq, digestCore32_eq, hlarge, hlanes, htotal, hpending]

theorem digestCore64_congr {c d : Ctx64} (h : c.sameButStale d) : digestCore64 c = digestCore64 d := by
  obtain ⟨-, hlanes, htotal, -, hpending⟩ := h
  rw [digestCore64_eq, digestCore64_eq, hlanes, htotal, hpending]

/-- LARGE depends on TOTAL_LEN and on itself only (spec/42_update.md R150). -/
theorem update32_large_congr {c d : Ctx32} (h : c.toCtx.sameButStale d.toCtx) (hlarge : c.large = d.large)
    (data : List Byte) : (c.update data).large = (d.update data).large := by
  obtain ⟨-, -, htotal, -, -⟩ := h
  rw [update32_large, update32_large, hlarge, htotal]

/-- Settles O26: the digest and the update of a context read only its pending bytes of PBUF. -/
theorem staleBytesAreNeverRead : Obligations.StaleBytesAreNeverRead :=
  ⟨fun _ _ h hlarge => ⟨digestCore32_congr h hlarge, fun data =>
      ⟨sameButStale_update xh32 h data, update32_large_congr h hlarge data⟩⟩,
    fun _ _ h => ⟨digestCore64_congr h, fun data => sameButStale_update xh64 h data⟩⟩

end Sys2Proof.Machine
end

section
/-! The invariant of the machine: one lemma per update of the state, one per context operation, then the commands, the
inputs and the step. -/

namespace Sys2Proof.Machine

variable {s t : State}

/-! ### The contexts -/

section
variable {w S : Nat} {e : Engine w}

theorem plenOk_reset [NeZero S] (seed : BitVec w) : (Ctx.reset (S := S) e seed).PlenOk := rfl

/-- The wrap of TOTAL_LEN at 2^64 does not disturb PLEN, as the stripe size divides 2^64 (spec/42_update.md R157). -/
theorem plenOk_update {c : Ctx w S} (hS : S ∣ 2 ^ 64) (hc : c.PlenOk) (data : List Byte) :
    (c.update e data).PlenOk := by
  obtain ⟨-, htotal, -, hplen, -⟩ := update_spec e c data
  rw [Ctx.PlenOk, hplen, hc, htotal, BitVec.toNat_add, BitVec.toNat_ofNat, Nat.add_mod_mod, Nat.mod_mod_of_dvd _ hS,
    Nat.mod_add_mod]

end

/-- What the invariant says of C32. -/
def Ctx32.Ok (c : Ctx32) : Prop := c.PlenOk ∧ c.SmallOk

theorem ctx32_ok_reset (seed : Word32) : (Ctx32.reset seed).Ok :=
  ⟨plenOk_reset seed, fun _ => ⟨Nat.zero_lt_succ 15, rfl⟩⟩

/-- While LARGE stays clear, no stripe is complete, so the lanes stay those of the reset. The chunk is too short for
TOTAL_LEN to wrap back below 16. -/
theorem smallOk_update {c : Ctx32} (hc : c.Ok) {data : List Byte} (hlen : data.length < 2 ^ 32) :
    (c.update data).SmallOk := by
  obtain ⟨hplen, hsmall⟩ := hc
  intro hl
  rw [update32_large, Bool.or_eq_false_iff, decide_eq_false_iff_not, Nat.not_le] at hl
  obtain ⟨hclear, hshort⟩ := hl
  obtain ⟨hfew, hreset⟩ := hsmall hclear
  obtain ⟨hseed, htotal, hlanes, -, -⟩ := update_spec xh32 c.toCtx data
  have hnone : c.plen.val + data.length < 16 := by
    rw [BitVec.toNat_add, BitVec.toNat_ofNat] at hshort
    omega
  refine ⟨htotal ▸ hshort, ?_⟩
  change (c.toCtx.update xh32 data).lanes = resetLanes xh32 (c.toCtx.update xh32 data).seed
  rw [hlanes, Nat.div_eq_of_lt hnone, foldUnits_zero, hseed, hreset]

theorem ctx32_ok_update {c : Ctx32} (hc : c.Ok) {data : List Byte} (hlen : data.length < 2 ^ 32) :
    (c.update data).Ok :=
  ⟨plenOk_update (by decide) hc.1 data, smallOk_update hc hlen⟩

theorem ctx64_plenOk_update {c : Ctx64} (hc : c.PlenOk) (data : List Byte) : (Ctx64.update c data).PlenOk :=
  plenOk_update (by decide) hc data

/-- ARG_LEN bounds a chunk below 2^32 bytes (spec/10_state.md R36). -/
theorem chunk_length_lt {data : List Byte} (h : s.chunk = .ok data) : data.length < 2 ^ 32 :=
  chunk_length h ▸ s.argLen.isLt

/-! ### The updates of the state -/

theorem inv_setC32 (hs : s.Inv) {c : Ctx32} (hc : c.Ok) : (s.setC32 c).Inv := by
  obtain ⟨hcfg, hsrc, herror, hresult, -, -, h64⟩ := hs
  exact ⟨hcfg, hsrc, herror, hresult, hc.1, hc.2, h64⟩

theorem inv_setC64 (hs : s.Inv) {c : Ctx64} (hc : c.PlenOk) : (s.setC64 c).Inv := by
  obtain ⟨hcfg, hsrc, herror, hresult, hplen, hsmall, -⟩ := hs
  exact ⟨hcfg, hsrc, herror, hresult, hplen, hsmall, hc⟩

/-- Writing a digest keeps the invariant when one of XH32 fits in RESULT_LO (spec/10_state.md R38). -/
theorem inv_setDigest (hs : s.Inv) {wide : Bool} {d : Word64} (hd : wide = false → d.extractLsb' 32 32 = 0#32) :
    (s.setDigest wide d).Inv := by
  obtain ⟨hcfg, hsrc, herror, -, hctx⟩ := hs
  exact ⟨hcfg, hsrc, herror, ⟨nofun, hd⟩, hctx⟩

theorem inv_digestC32 (hs : s.Inv) : s.digestC32.Inv :=
  inv_setDigest hs fun _ => by
    ext i hi
    simp [BitVec.getElem_extractLsb', BitVec.getLsbD_setWidth]

theorem inv_digestC64 (hs : s.Inv) : s.digestC64.Inv := inv_setDigest hs nofun

/-- Error entry keeps the invariant for an illegal word, and for a word whose command reads a chunk
(spec/60_exceptions.md R200, R205). -/
theorem inv_raise (hs : s.Inv) {c : Cause} {word : Word32}
    (h : (c = .illegalCommand ∧ legalWord word = false) ∨
      (c = .boundsViolation ∧ word ∈ [0x2#32, 0xA#32, 0x4#32, 0xC#32])) : (s.raise c word).Inv := by
  obtain ⟨hcfg, hsrc, -, hresult, hctx⟩ := hs
  have herror : (s.raise c word).ErrorOk := by
    have herr : (s.raise c word).status.err = true := rfl
    rw [State.ErrorOk, if_pos herr]
    rcases h with ⟨rfl, hw⟩ | ⟨rfl, hw⟩
    · exact .inl ⟨rfl, hw⟩
    · exact .inr ⟨rfl, hw⟩
  exact ⟨hcfg, hsrc, herror, hresult, hctx⟩

theorem inv_clearError (hs : s.Inv) : s.clearError.Inv := by
  obtain ⟨hcfg, hsrc, -, hresult, hctx⟩ := hs
  exact ⟨hcfg, hsrc, ⟨rfl, rfl⟩, hresult, hctx⟩

/-- A host write inside SRC keeps the canonical form and the bound (spec/20_memory.md R51, R59). -/
theorem inv_srcWrite (hs : s.Inv) {addr : Nat} (ha : addr < s.cfg.srcBytes) (v : Byte) :
    (s.setSrc (s.src.write addr v)).Inv := by
  obtain ⟨hcfg, ⟨hwf, hbound⟩, hrest⟩ := hs
  exact ⟨hcfg, ⟨wf_write hwf addr v, bound_write v hbound ha⟩, hrest⟩

/-- Power-on establishes every part but the one on SRC_BYTES (spec/70_reset_and_hazards.md R230). -/
theorem inv_powerOn (hcfg : s.cfg.wf = true) : s.powerOn.Inv := by
  obtain ⟨hplen, hsmall⟩ := ctx32_ok_reset 0#32
  exact ⟨hcfg, ⟨rfl, nofun⟩, ⟨rfl, rfl⟩, ⟨fun _ => ⟨rfl, rfl⟩, fun _ => by simp⟩, hplen, hsmall, plenOk_reset 0#64⟩

/-! ### The commands and the step -/

theorem Ran.inv {i : Instr} (h : Ran i s t) (hs : s.Inv) : t.Inv := by
  have ⟨_, _, _, _, hplen32, hsmall32, hplen64⟩ := hs
  cases h with
  | reset32 => exact inv_setC32 hs (ctx32_ok_reset _)
  | reset64 => exact inv_setC64 hs (plenOk_reset _)
  | update32 _ data hc => exact inv_setC32 hs (ctx32_ok_update ⟨hplen32, hsmall32⟩ (chunk_length_lt hc))
  | update64 _ data => exact inv_setC64 hs (ctx64_plenOk_update hplen64 data)
  | digest32 => exact inv_digestC32 hs
  | digest64 => exact inv_digestC64 hs
  | hash32 _ data hc => exact inv_digestC32 (inv_setC32 hs (ctx32_ok_update (ctx32_ok_reset _) (chunk_length_lt hc)))
  | hash64 _ data => exact inv_digestC64 (inv_setC64 hs (ctx64_plenOk_update (plenOk_reset _) data))

/-- The words BOUNDS_VIOLATION can leave in ERRINFO (spec/60_exceptions.md R202). -/
theorem encode_mem_of_readsChunk {i : Instr} (h : readsChunk i = true) :
    encode i ∈ [0x2#32, 0xA#32, 0x4#32, 0xC#32] := by
  cases i
  case update32 | update64 | hash32 | hash64 => decide
  all_goals cases h

theorem inv_exec {i : Instr} (h : exec i s = .next t) (hs : s.Inv) : t.Inv := by
  rcases exec_next h with ⟨-, rfl⟩ | ⟨-, -, rfl⟩ | ⟨-, hreads, -, rfl⟩ | ⟨-, -, hran⟩
  · exact inv_clearError hs
  · exact hs
  · exact inv_raise hs (.inr ⟨rfl, encode_mem_of_readsChunk hreads⟩)
  · exact hran.inv hs

theorem legalWord_of_decode_error {c : Word32} {r : DecodeReject} (h : decode c = .error r) :
    legalWord c = false := by
  rw [legalWord, h]

/-- The inputs that write nothing the invariant speaks of are the last case. -/
theorem Performed.inv {a : Access} (h : Performed a s t) (hs : s.Inv) : t.Inv := by
  cases h
  case command hexec => exact inv_exec hexec hs
  case illegal hdec _ => exact inv_raise hs (.inl ⟨rfl, legalWord_of_decode_error hdec⟩)
  case srcWrite ha => exact inv_srcWrite hs ha _
  case powerOn => exact inv_powerOn hs.1
  all_goals exact hs

/-- Settles O51: the invariant does not speak of the inputs still to come, and every input keeps it. -/
theorem everyStepKeepsTheInvariant : Obligations.EveryStepKeepsTheInvariant := by
  intro s t hs h
  rcases step_next h with ⟨-, rfl⟩ | ⟨a, later, -, hperf⟩
  · exact hs
  · have hfetched : (s.setInputs later).Inv := hs
    exact hperf.inv hfetched

end Sys2Proof.Machine
end

section
/-! Little-endian words: the number a byte list stands for, digit by digit and bit by bit. -/

namespace Sys2Proof.Machine

theorem leNat_cons (b : Byte) (rest : List Byte) : leNat (b :: rest) = 2 ^ 8 * leNat rest + b.toNat :=
  Nat.add_comm _ _

/-- The bytes fill 8 bits each, so the word of 8n bits cuts nothing off. -/
theorem leNat_lt (bytes : List Byte) : leNat bytes < 2 ^ (8 * bytes.length) := by
  induction bytes with
  | nil => decide
  | cons b rest ih =>
    have hb := b.isLt
    rw [leNat_cons, List.length_cons, Nat.mul_succ, Nat.pow_add]
    omega

theorem le_toNat (bytes : List Byte) : (le (8 * bytes.length) bytes).toNat = leNat bytes :=
  Nat.mod_eq_of_lt (leNat_lt bytes)

theorem leNat_eq_sum (bytes : List Byte) :
    leNat bytes = ∑ i : Fin bytes.length, bytes[i].toNat <<< (8 * i.val) := by
  induction bytes with
  | nil => rfl
  | cons b rest ih =>
    have hdigit (i : Fin rest.length) :
        rest[i].toNat <<< (8 * (i.val + 1)) = 2 ^ 8 * (rest[i].toNat <<< (8 * i.val)) := by
      rw [Nat.shiftLeft_eq, Nat.shiftLeft_eq, Nat.mul_succ, Nat.pow_add]
      ring
    calc leNat (b :: rest)
      _ = b.toNat + ∑ i : Fin rest.length, 2 ^ 8 * (rest[i].toNat <<< (8 * i.val)) := by
        rw [leNat_cons, ih, Finset.mul_sum, Nat.add_comm]
      _ = b.toNat <<< 0 + ∑ i : Fin rest.length, rest[i].toNat <<< (8 * (i.val + 1)) := by
        simp only [hdigit, Nat.shiftLeft_zero]
      _ = _ := (Fin.sum_univ_succ fun i : Fin (rest.length + 1) => (b :: rest)[i].toNat <<< (8 * i.val)).symm

/-- Bit `8i + j` is bit `j` of byte `i` (spec/20_memory.md R53). -/
theorem leNat_testBit {bytes : List Byte} {i j : Nat} (hi : i < bytes.length) (hj : j < 8) :
    (leNat bytes).testBit (8 * i + j) = bytes[i].getLsbD j := by
  induction bytes generalizing i with
  | nil => cases hi
  | cons b rest ih =>
    rw [leNat_cons, Nat.testBit_two_pow_mul_add _ b.isLt]
    cases i with
    | zero => rw [if_pos (by omega), Nat.mul_zero, Nat.zero_add]; rfl
    | succ i =>
      rw [if_neg (by omega), show 8 * (i + 1) + j - 8 = 8 * i + j by omega]
      exact ih (Nat.lt_of_succ_lt_succ hi)

/-- Settles O29, by induction on the bytes: the first byte is the low eight bits, the rest comes above it. -/
theorem littleEndianAssembly : Obligations.LittleEndianAssembly := by
  intro bytes
  refine ⟨(le_toNat bytes).trans (leNat_eq_sum bytes), fun i j hj => ?_⟩
  rw [BitVec.getLsbD, le_toNat]
  exact leNat_testBit i.isLt hj

end Sys2Proof.Machine
end

section
/-! The host's accesses: which are refused, and what they do to SRC. -/

namespace Sys2Proof.Machine

variable {s t : State} {r : Refusal}

/-! ### Refusals -/

theorem unlessLocked_ne_refused {effect : Answer} (h : effect ≠ .refused r) (s : State) :
    s.unlessLocked effect ≠ .refused r := by
  cases he : s.status.err with
  | true => rw [unlessLocked_locked he]; nofun
  | false => rwa [unlessLocked_open he]

theorem withChunk_ne_refused {effect : List Byte → Answer} (h : ∀ data, effect data ≠ .refused r) (s : State)
    (i : Instr) : s.withChunk i effect ≠ .refused r := by
  rcases withChunk_cases s i effect with ⟨-, he⟩ | ⟨-, _, -, he⟩ | ⟨-, data, -, he⟩
  · rw [he]; nofun
  · rw [he]; nofun
  · rw [he]; exact h data

/-- Every command has its meaning in every state. -/
theorem exec_ne_refused (i : Instr) (s : State) : exec i s ≠ .refused r := by
  cases i
  case clrerr => nofun
  case reset32 | reset64 | digest32 | digest64 => exact unlessLocked_ne_refused (by nofun) s
  case update32 | update64 | hash32 | hash64 =>
    exact unlessLocked_ne_refused (withChunk_ne_refused (by nofun) s _) s

theorem command_ne_refused (s : State) (c : Word32) : s.command c ≠ .refused r := by
  unfold State.command
  split
  · exact exec_ne_refused _ s
  · exact unlessLocked_ne_refused (by nofun) s

theorem writeReg_ne_refused (s : State) (reg : Reg) (v : Word32) : s.writeReg reg v ≠ .refused r := by
  cases reg
  case cmd => exact command_ne_refused s v
  all_goals nofun

theorem hostSrcRead_ne_refused (s : State) (addr : Nat) : s.hostSrcRead addr ≠ .refused r := by
  unfold State.hostSrcRead
  split <;> nofun

/-- A test whose only refusal is its failure. -/
theorem ite_refused_iff {defined : Bool} {effect : Answer} {why : Refusal} (h : ∀ r, effect ≠ .refused r) :
    (∃ r, (if defined = true then effect else .refused why) = .refused r) ↔ defined = false := by
  cases defined with
  | true => simpa using h
  | false => simp

/-- An input is refused exactly when the block does not define it (spec/20_memory.md R58, R59). -/
theorem perform_refused_iff (s : State) (a : Access) : (∃ r, s.perform a = .refused r) ↔ a.wf s.cfg = false := by
  cases a with
  | regRead => exact ite_refused_iff nofun
  | regWrite => exact ite_refused_iff fun _ => writeReg_ne_refused _ _ _
  | srcRead => exact ite_refused_iff fun _ => hostSrcRead_ne_refused _ _
  | srcWrite => exact ite_refused_iff nofun
  | powerOn => simp [State.perform, Access.wf]

/-- With no input left the block is idle (spec/70_reset_and_hazards.md R231). -/
theorem step_nil (h : s.inputs = []) : step s = .next s := by
  simp only [step, State.fetch, h]

/-- Settles O36: the idle step answers a next state, and any other step refuses exactly when its input is undefined. -/
theorem onlyUndefinedAccessesAreRefused : Obligations.OnlyUndefinedAccessesAreRefused := by
  intro s
  cases hin : s.inputs with
  | nil => simp [step_nil hin]
  | cons a later =>
    rw [step_cons hin, perform_refused_iff, setInputs_cfg]
    constructor
    · exact fun hwf => ⟨a, later, rfl, hwf⟩
    · rintro ⟨_, _, heq, hwf⟩
      cases heq
      exact hwf

/-! ### SRC -/

/-- All that one input can do to what SRC reads as (spec/20_memory.md R51). -/
theorem Performed.src_read {a : Access} (h : Performed a s t) (addr : Nat) :
    t.src.read addr = s.src.read addr ∨ a = .powerOn ∨ ∃ v, a = .srcWrite addr v := by
  cases h
  case powerOn => exact .inr (.inl rfl)
  case command hexec =>
    obtain ⟨-, -, -, -, -, -, -, hread⟩ := exec_operandsKept hexec
    exact .inl (hread addr)
  case srcWrite written v _ =>
    by_cases heq : addr = written
    · exact .inr (.inr ⟨v, heq ▸ rfl⟩)
    · exact .inl (by rw [setSrc_src, read_write, if_neg heq])
  all_goals exact .inl rfl

/-- Settles O42: no input but power-on and a write of the byte itself changes what the byte reads as. -/
theorem onlyTheHostWritesSrc : Obligations.OnlyTheHostWritesSrc := by
  intro s t addr h hne
  rcases step_next h with ⟨-, rfl⟩ | ⟨a, later, hin, hperf⟩
  · exact absurd rfl hne
  · exact ⟨a, later, hin, (hperf.src_read addr).resolve_left hne⟩

/-- The bounds test of a host SRC access that passes (spec/20_memory.md R59). -/
theorem srcAccessDefined_of_lt {cfg : Config} {addr : Nat} (h : addr < cfg.srcBytes) :
    srcAccessDefined cfg addr = true :=
  decide_eq_true h

/-- The bounds test of a host SRC access that fails (spec/20_memory.md R59). -/
theorem not_srcAccessDefined_of_le {cfg : Config} {addr : Nat} (h : cfg.srcBytes ≤ addr) :
    ¬ srcAccessDefined cfg addr = true := by
  simpa [srcAccessDefined] using h

/-- Settles O35: the bounds test decides, and neither access looks at the error state. -/
theorem hostSrcAccesses : Obligations.HostSrcAccesses := by
  intro s addr later
  refine ⟨fun v hin ha => ⟨s.src.write addr v, ?_, read_write s.src addr v⟩, fun v hin ha hv => ?_,
    fun v hin ha => ?_, fun hin ha => ?_⟩
  · rw [step_cons hin]
    exact if_pos (srcAccessDefined_of_lt ha)
  · have hread : (s.setInputs later).hostSrcRead addr = .next ((s.setInputs later).showValue (.src v)) := by
      rw [State.hostSrcRead, setInputs_src, hv]
    rw [step_cons hin]
    exact (if_pos (srcAccessDefined_of_lt ha)).trans hread
  · rw [step_cons hin]
    exact if_neg (not_srcAccessDefined_of_le ha)
  · rw [step_cons hin]
    exact if_neg (not_srcAccessDefined_of_le ha)

end Sys2Proof.Machine
end

section
/-! The command words: the decoder on a word given by its fields, the words that are legal, and what a write of an
illegal word does. -/

namespace Sys2Proof.Machine

/-- Settles O2: every command is well-formed and decodes from its own word, and no other word decodes to it. -/
theorem decodeInvertsEncode : Obligations.DecodeInvertsEncode := by
  intro i c _
  constructor
  · exact eq_encode_of_decode
  · rintro rfl
    exact decode_encode i

/-! ### Words given by their fields -/

section

variable (z : BitVec 28) (w : BitVec 1) (op : BitVec 3)

@[simp] theorem zField_append : zField (z ++ w ++ op) = z := by
  ext i hi
  simp only [zField, BitVec.getElem_extractLsb', BitVec.getLsbD_append]
  rw [if_neg (by omega), if_neg (by omega), show 4 + i - 3 - 1 = i by omega, BitVec.getLsbD_eq_getElem hi]

@[simp] theorem wField_append : wField (z ++ w ++ op) = w.getLsbD 0 := by
  rw [wField, BitVec.getLsbD_append, if_neg (by omega), BitVec.getLsbD_append, if_pos (by omega)]

@[simp] theorem opField_append : opField (z ++ w ++ op) = op := by
  ext i hi
  simp only [opField, BitVec.getElem_extractLsb', BitVec.getLsbD_append]
  rw [if_pos (by omega), Nat.zero_add, BitVec.getLsbD_eq_getElem hi]

/-- The decoder on the fields {Z = 0, W, OP} (spec/30_encoding.md R71, R72). -/
theorem decode_zero_append : decode (0#28 ++ w ++ op) = decodeOp op.toNat (w.getLsbD 0) := by
  rw [decode, zField_append, if_pos rfl, opField_append, wField_append]

/-- A word whose Z is not 0 is rejected for it (spec/30_encoding.md R75). -/
theorem decode_append_of_ne_zero (hz : z ≠ 0#28) : decode (z ++ w ++ op) = .error .zFieldNonzero := by
  rw [decode, zField_append, if_neg hz]

end

/-- Settles O3: each word is its fields, and `decodeOp` says what W and OP stand for. -/
theorem writtenOutWordsDecode : Obligations.WrittenOutWordsDecode :=
  ⟨decode_zero_append 0 1, decode_zero_append 1 1, decode_zero_append 0 2, decode_zero_append 1 2,
    decode_zero_append 0 3, decode_zero_append 1 3, decode_zero_append 0 4, decode_zero_append 1 4,
    decode_zero_append 0 5, decode_zero_append 1 5, decode_zero_append 0 0, decode_zero_append 1 0,
    decode_zero_append 0 6, decode_zero_append 0 7, decode_zero_append 1 6, decode_zero_append 1 7,
    decode_append_of_ne_zero 1 0 0 (by decide),
    decode_append_of_ne_zero 0x8000000 0 1 (by decide)⟩

/-! ### The legal words -/

/-- A word is legal exactly when it is the word of a command (spec/30_encoding.md R74). -/
theorem legalWord_iff (c : Word32) : legalWord c = true ↔ ∃ i, c = encode i := by
  constructor
  · intro h
    cases hdec : decode c with
    | ok i => exact ⟨i, eq_encode_of_decode hdec⟩
    | error r => simp [legalWord_of_decode_error hdec] at h
  · rintro ⟨i, rfl⟩
    rw [legalWord, decode_encode]

/-- The nine words of spec/30_encoding.md R73. -/
theorem exists_eq_encode_iff (c : Word32) :
    (∃ i, c = encode i) ↔ c ∈ [0x1#32, 0x2#32, 0x3#32, 0x4#32, 0x5#32, 0x9#32, 0xA#32, 0xB#32, 0xC#32] := by
  constructor
  · rintro ⟨i, rfl⟩
    cases i <;> decide
  · intro h
    have hwords : c ∈ [Instr.reset32, .update32, .digest32, .hash32, .clrerr, .reset64, .update64, .digest64,
        .hash64].map encode := h
    obtain ⟨i, -, hi⟩ := List.mem_map.mp hwords
    exact ⟨i, hi.symm⟩

/-- The legal words by their fields (spec/30_encoding.md R74): CLRERR is the one command with a single W. -/
theorem legalWord_iff_fields (c : Word32) :
    legalWord c = true ↔ (zField c = 0#28 ∧ opField c ∈ [1#3, 2#3, 3#3, 4#3]) ∨ c = 0x00000005#32 := by
  constructor
  · rw [legalWord_iff]
    rintro ⟨i, rfl⟩
    cases i <;> decide
  · rintro (⟨hz, hop⟩ | rfl)
    · have hlegal : ∀ w : Bool, ∀ op ∈ [1#3, 2#3, 3#3, 4#3],
          legalWord (0#28 ++ BitVec.ofBool w ++ op) = true := by decide
      rw [← fields_append c, hz]
      exact hlegal _ _ hop
    · rfl

/-! ### A write of an illegal word -/

theorem command_of_illegal {c : Word32} (h : legalWord c = false) (s : State) : s.command c = s.illegalCommand c := by
  cases hdec : decode c with
  | ok i => simp [legalWord, hdec] at h
  | error r => rw [State.command, hdec]

/-- Settles O1: the legal words are those of the commands; the step on a write of CMD runs a legal word, and an illegal
one meets the error lock and then raises. -/
theorem commandWordsAreExactlyTheNine : Obligations.CommandWordsAreExactlyTheNine := by
  intro c
  refine ⟨(legalWord_iff c).trans (exists_eq_encode_iff c), legalWord_iff_fields c, ?_⟩
  intro s later hin
  refine ⟨?_, ?_, ?_⟩
  · intro i hdec
    refine ⟨eq_encode_of_decode hdec, ?_⟩
    rw [step_writeCmd hin, command_of_decode hdec]
    rfl
  · intro hill herr
    rw [step_writeCmd hin, command_of_illegal hill]
    exact unlessLocked_locked (s := s.setInputs later) herr _
  · intro hill herr
    rw [step_writeCmd hin, command_of_illegal hill]
    exact unlessLocked_open (s := s.setInputs later) herr _

end Sys2Proof.Machine
end

section
/-! The bounds test of a chunk, on whole numbers. -/

namespace Sys2Proof.Machine

/-- The end of the chunk needs the 33 bits it has (spec/30_encoding.md R77). -/
theorem chunkEnd_toNat (s : State) : s.chunkEnd.toNat = s.argOff.toNat + s.argLen.toNat := by
  have hoff := s.argOff.isLt
  have hlen := s.argLen.isLt
  simp only [State.chunkEnd, BitVec.toNat_add, BitVec.toNat_setWidth]
  omega

theorem chunkInBounds_iff (s : State) :
    s.chunkInBounds = true ↔ s.argOff.toNat + s.argLen.toNat ≤ s.cfg.srcBytes := by
  rw [State.chunkInBounds, decide_eq_true_iff, chunkEnd_toNat]

/-- Settles O9: the sum fits 33 bits, and with ARG_LEN = 0 it is ARG_OFF. -/
theorem boundsSumCannotWrap : Obligations.BoundsSumCannotWrap := by
  intro s
  refine ⟨chunkEnd_toNat s, chunkInBounds_iff s, fun hlen => ?_⟩
  rw [chunkInBounds_iff, hlen, BitVec.toNat_zero, Nat.add_zero]

end Sys2Proof.Machine
end

section
/-! The rotation, bit by bit, and the avalanche networks as compositions of injective stages. -/

namespace Sys2Proof.Machine

/-! ### The rotation -/

/-- Bit `i` of the rotation is the bit `r` places below it, wrapping at the width (spec/40_datapath.md R102). -/
theorem getLsbD_rotl {w : Nat} (x : BitVec w) {r i : Nat} (hr : r < w) (hi : i < w) :
    (rotl x r).getLsbD i = x.getLsbD ((i + (w - r)) % w) := by
  have hrot : rotl x r = x.rotateLeft r := by rw [BitVec.rotateLeft_def, Nat.mod_eq_of_lt hr, rotl]
  rw [hrot, BitVec.getLsbD_rotateLeft_of_le hr]
  by_cases hir : i < r
  · have hmod : (i + (w - r)) % w = w - r + i := by rw [Nat.mod_eq_of_lt (by omega), Nat.add_comm]
    simp [hir, hmod]
  · have hmod : (i + (w - r)) % w = i - r := by
      rw [show i + (w - r) = i - r + w by omega, Nat.add_mod_right, Nat.mod_eq_of_lt (by omega)]
    simp [hir, hi, hmod]

theorem rotl_zero {w : Nat} (r : Nat) : rotl (0#w) r = 0#w := by simp [rotl]

theorem rotl_allOnes {w r : Nat} (hr : r < w) : rotl (BitVec.allOnes w) r = BitVec.allOnes w := by
  refine BitVec.eq_of_getLsbD_eq fun i hi => ?_
  have hmod : (i + (w - r)) % w < w := Nat.mod_lt _ (by omega)
  rw [getLsbD_rotl _ hr hi, BitVec.getLsbD_allOnes, BitVec.getLsbD_allOnes, decide_eq_true hmod, decide_eq_true hi]

/-- Settles O28: every bit has one source bit, so a word whose bits are all equal is kept. -/
theorem rotlMovesBits : Obligations.RotlMovesBits :=
  ⟨fun _ x r _ hr => ⟨rfl, fun _ hi => getLsbD_rotl x hr hi, rotl_zero r, rotl_allOnes hr⟩, by decide, by decide⟩

/-! ### The avalanche -/

/-- Only 0 is its own right shift by a positive amount: halving makes every other number smaller. -/
theorem eq_zero_of_eq_ushiftRight {w a : Nat} (ha : 0 < a) {d : BitVec w} (hd : d = d >>> a) : d = 0#w := by
  have hdiv : d.toNat = d.toNat / 2 ^ a := by
    rw [← Nat.shiftRight_eq_div_pow, ← BitVec.toNat_ushiftRight, ← hd]
  by_contra hne
  have hpos : 0 < d.toNat := Nat.pos_of_ne_zero fun h => hne (BitVec.eq_of_toNat_eq (by simp [h]))
  exact absurd (Nat.div_lt_self hpos (Nat.one_lt_two_pow ha.ne')) (by omega)

/-- `xorShift` is linear for xor, and it sends no word but 0 to 0. -/
theorem xorShift_injective {w a : Nat} (ha : 0 < a) : Function.Injective fun h : BitVec w => xorShift h a := by
  intro x y hxy
  have hdiff : x ^^^ y = (x ^^^ y) >>> a := by
    rw [BitVec.ushiftRight_xor_distrib, ← BitVec.xor_eq_zero_iff]
    calc x ^^^ y ^^^ (x >>> a ^^^ y >>> a)
        = xorShift x a ^^^ xorShift y a := by unfold xorShift; ac_rfl
      _ = 0#w := BitVec.xor_eq_zero_iff.2 hxy
  exact BitVec.xor_eq_zero_iff.1 (eq_zero_of_eq_ushiftRight ha hdiff)

/-- The network is a bijection for every engine with positive shifts and invertible multipliers. -/
theorem avalanche_bijective {w : Nat} {e : Engine w} (hs1 : 0 < e.shift1) (hs2 : 0 < e.shift2) (hs3 : 0 < e.shift3)
    (hp2 : IsUnit e.prime2) (hp3 : IsUnit e.prime3) : Function.Bijective (avalanche e) := by
  have hinj : Function.Injective (avalanche e) :=
    (xorShift_injective hs3).comp <| hp3.mul_left_injective.comp <|
      (xorShift_injective hs2).comp <| hp2.mul_left_injective.comp (xorShift_injective hs1)
  exact Finite.injective_iff_bijective.1 hinj

/-- Settles O30: the shifts are positive, and each multiplier has an inverse, written out here. -/
theorem avalancheIsBijective : Obligations.AvalancheIsBijective :=
  ⟨avalanche_bijective (by decide) (by decide) (by decide)
      (.of_mul_eq_one 0xB6C92F47#32 (by decide)) (.of_mul_eq_one 0xA89ED915#32 (by decide)),
    avalanche_bijective (by decide) (by decide) (by decide)
      (.of_mul_eq_one 0x0BA79078168D4BAF#64 (by decide)) (.of_mul_eq_one 0xE9E9F4C41D6DF849#64 (by decide))⟩

end Sys2Proof.Machine
end

section
/-! RESET32, RESET64 and CLRERR: what each leaves, what it keeps, and that CLRERR alone passes the error lock. -/

namespace Sys2Proof.Machine

variable {s t : State}

/-! ### The reset commands -/

/-- RESET32 on an unlocked block (spec/41_reset_cmd.md R141). -/
theorem exec_reset32 (h : s.status.err = false) : exec .reset32 s = .next (s.setC32 (Ctx32.reset s.seed32)) :=
  unlessLocked_open h _

/-- RESET64 on an unlocked block (spec/41_reset_cmd.md R142). -/
theorem exec_reset64 (h : s.status.err = false) : exec .reset64 s = .next (s.setC64 (Ctx64.reset s.seed64)) :=
  unlessLocked_open h _

/-- Settles O12: `ContextReset` with the constants of R100 is the context written out. -/
theorem reset32Result : Obligations.Reset32Result := by
  intro s herr
  rw [exec_reset32 herr]
  rfl

/-- Settles O13: `ContextReset` with the constants of R101 is the context written out. -/
theorem reset64Result : Obligations.Reset64Result := by
  intro s herr
  rw [exec_reset64 herr]
  rfl

/-- Behind the error lock a command whose effect always answers a next state was discarded or had that effect. -/
theorem unlessLocked_next {effect : State} (h : s.unlessLocked (.next effect) = .next t) : t = s ∨ t = effect := by
  cases he : s.status.err with
  | true =>
    rw [unlessLocked_locked he] at h
    cases h
    exact .inl rfl
  | false =>
    rw [unlessLocked_open he] at h
    cases h
    exact .inr rfl

/-- Settles O43: discarded or not, a reset writes at most its own context. -/
theorem resetFrame : Obligations.ResetFrame := by
  refine fun s t => ⟨fun h => ?_, fun h => ?_⟩
  · have hops := exec_operandsKept h
    rcases unlessLocked_next h with rfl | rfl <;> exact ⟨rfl, rfl, rfl, rfl, hops⟩
  · have hops := exec_operandsKept h
    rcases unlessLocked_next h with rfl | rfl <;> exact ⟨rfl, rfl, rfl, rfl, hops⟩

/-! ### CLRERR and the error lock -/

/-- CLRERR does not look at the error lock (spec/41_reset_cmd.md R143). -/
theorem exec_clrerr (s : State) : exec .clrerr s = .next s.clearError := rfl

/-- Settles O47: error return writes ERR, CAUSE and ERRINFO only. -/
theorem clrerrFrame : Obligations.ClrerrFrame := by
  intro s t h
  have hops := exec_operandsKept h
  rw [exec_clrerr] at h
  cases h
  exact ⟨rfl, rfl, rfl, hops, rfl, rfl⟩

/-- Every command but CLRERR meets the error lock first (spec/60_exceptions.md R206). -/
theorem exec_locked {i : Instr} (hi : i ≠ .clrerr) (herr : s.status.err = true) : exec i s = .next s := by
  cases i
  case clrerr => exact absurd rfl hi
  all_goals exact unlessLocked_locked herr _

theorem Status.cleared_of_noError {st : Status} (herr : st.err = false) (hcause : st.cause = 0#4) :
    st.cleared = st := by
  rw [Status.cleared, ← herr, ← hcause]

/-- Error return has no effect where there is no error to return from (spec/41_reset_cmd.md R143). -/
theorem clearError_of_noError (herr : s.status.err = false) (hcause : s.status.cause = 0#4)
    (hinfo : s.errinfo = 0#32) : s.clearError = s := by
  rw [State.clearError, Status.cleared_of_noError herr hcause, ← hinfo]

/-- STATUS after error return reads 0 when RV and RW are 0: no other field is left. -/
theorem Status.cleared_word_eq_zero {st : Status} (hrv : st.rv = false) (hrw : st.rw = false) :
    st.cleared.word = 0#32 := by
  rw [Status.cleared, hrv, hrw]
  rfl

/-- Settles O11: CLRERR is error return in every state, which keeps RV and RW; in the example's STATUS, 0x21, these are
bits 1 and 2, both 0. -/
theorem clrerrResult : Obligations.ClrerrResult := by
  refine ⟨exec_clrerr, fun c => decodeInvertsEncode .clrerr c rfl, by decide, ?_, ?_, ?_⟩
  · intro s herr hcause hinfo
    rw [exec_clrerr, clearError_of_noError herr hcause hinfo]
  · exact fun s i herr hi => exec_locked hi herr
  · intro s t hword _ h
    have hrv : s.status.rv = false := (s.status.word_getLsbD 1).symm.trans (by rw [hword]; rfl)
    have hrw : s.status.rw = false := (s.status.word_getLsbD 2).symm.trans (by rw [hword]; rfl)
    rw [exec_clrerr] at h
    cases h
    exact ⟨Status.cleared_word_eq_zero hrv hrw, rfl⟩

end Sys2Proof.Machine
end

section
/-! The streams the contexts hold: a reset begins the empty stream, an update extends it by its chunk, and the step
follows the stream that the next input builds (spec/42_update.md R157). -/

namespace Sys2Proof.Machine

variable {s t : State}

/-! ### One context -/

section
variable {w S : Nat} {e : Engine w} {seed : BitVec w} {bytes : List Byte}

theorem holdsStream_reset [NeZero S] (e : Engine w) (seed : BitVec w) :
    (Ctx.reset (S := S) e seed).holdsStream e seed [] := by
  refine ⟨rfl, ?_, ?_, (reset_pending e seed).trans List.drop_nil.symm, rfl⟩
  · rw [streamLanes, List.length_nil, Nat.zero_div, foldUnits_zero]
    rfl
  · exact (Nat.zero_mod S).symm

/-- The rest of a stream and more bytes complete as many stripes as the whole does beyond those of the stream. -/
theorem append_length_div (S : Nat) (bytes data : List Byte) :
    (bytes ++ data).length / S = bytes.length / S + (bytes.length % S + data.length) / S := by
  rcases Nat.eq_zero_or_pos S with rfl | hS
  · simp
  · conv_lhs => rw [List.length_append, ← Nat.div_add_mod bytes.length S, Nat.add_assoc, Nat.mul_add_div hS]

/-- Beyond the whole stripes of a stream, a longer one goes on with the rest of the first. -/
theorem drop_stripes_append (S : Nat) (bytes data : List Byte) :
    (bytes ++ data).drop (bytes.length / S * S) = streamRest S bytes ++ data :=
  List.drop_append_of_le_length (Nat.div_mul_le_self _ _)

theorem streamLanes_append (e : Engine w) (S : Nat) (seed : BitVec w) (bytes data : List Byte) :
    streamLanes e S seed (bytes ++ data) =
      foldUnits (stripeMix e) S ((bytes.length % S + data.length) / S) (streamLanes e S seed bytes)
        (streamRest S bytes ++ data) := by
  rw [streamLanes, append_length_div, foldUnits_add, drop_stripes_append,
    foldUnits_append _ _ _ _ (Nat.div_mul_le_self _ _), streamLanes]

theorem streamRest_append (S : Nat) (bytes data : List Byte) :
    streamRest S (bytes ++ data) =
      (streamRest S bytes ++ data).drop ((bytes.length % S + data.length) / S * S) := by
  rw [streamRest, append_length_div, Nat.add_mul, ← List.drop_drop, drop_stripes_append]

/-- An update extends the stream a context holds by its chunk, as long as TOTAL_LEN does not wrap
(spec/42_update.md R157). -/
theorem holdsStream_update {c : Ctx w S} (h : c.holdsStream e seed bytes) (data : List Byte)
    (hshort : (bytes ++ data).length < 2 ^ 64) : (c.update e data).holdsStream e seed (bytes ++ data) := by
  obtain ⟨hseed, hlanes, hplen, hpending, htotal⟩ := h
  obtain ⟨useed, utotal, ulanes, uplen, upending⟩ := update_spec e c data
  rw [List.length_append] at hshort
  refine ⟨?_, ?_, ?_, ?_, ?_⟩
  · rw [useed, hseed]
  · rw [ulanes, hplen, hlanes, hpending, streamLanes_append]
  · rw [uplen, hplen, List.length_append, Nat.mod_add_mod]
  · rw [upending, hplen, hpending, streamRest_append]
  · rw [utotal, BitVec.toNat_add, BitVec.toNat_ofNat, htotal, Nat.add_mod_mod, Nat.mod_eq_of_lt hshort,
      List.length_append]

end

theorem ctx32_holdsStream_reset (seed : Word32) : (Ctx32.reset seed).holdsStream seed [] :=
  ⟨holdsStream_reset xh32 seed, rfl⟩

theorem ctx64_holdsStream_reset (seed : Word64) : (Ctx64.reset seed).holdsStream seed [] :=
  holdsStream_reset xh64 seed

/-- LARGE is (T >= 16) after the update: TOTAL_LEN is the new T, and the old T is at most that. -/
theorem ctx32_holdsStream_update {c : Ctx32} {seed : Word32} {bytes : List Byte} (h : c.holdsStream seed bytes)
    (data : List Byte) (hshort : (bytes ++ data).length < 2 ^ 64) :
    (c.update data).holdsStream seed (bytes ++ data) := by
  obtain ⟨hctx, hlarge⟩ := h
  have hupdate := holdsStream_update hctx data hshort
  have ⟨_, _, _, _, hlen⟩ := hupdate
  obtain ⟨-, htotal, -⟩ := update_spec xh32 c.toCtx data
  refine ⟨hupdate, ?_⟩
  rw [update32_large, ← htotal, hlen, hlarge, ← Bool.decide_or, List.length_append]
  exact decide_eq_decide.mpr (by omega)

theorem ctx64_holdsStream_update {c : Ctx64} {seed : Word64} {bytes : List Byte} (h : c.holdsStream seed bytes)
    (data : List Byte) (hshort : (bytes ++ data).length < 2 ^ 64) :
    (Ctx64.update c data).holdsStream seed (bytes ++ data) :=
  holdsStream_update h data hshort

/-! ### Chunks after a reset -/

/-- What one chunk keeps, as a relation between a context and the bytes it received, any list of chunks keeps. -/
theorem foldl_chunks {γ : Type} {update : γ → List Byte → γ} {holds : γ → List Byte → Prop}
    (hupdate : ∀ {c bytes}, holds c bytes → ∀ data, (bytes ++ data).length < 2 ^ 64 →
      holds (update c data) (bytes ++ data))
    (chunks : List (List Byte)) {c : γ} {bytes : List Byte} (h : holds c bytes)
    (hshort : (bytes ++ chunks.flatten).length < 2 ^ 64) :
    holds (chunks.foldl update c) (bytes ++ chunks.flatten) := by
  induction chunks generalizing c bytes with
  | nil => rwa [List.flatten_nil, List.append_nil]
  | cons chunk rest ih =>
    rw [List.flatten_cons, ← List.append_assoc] at hshort ⊢
    have hfirst : (bytes ++ chunk).length < 2 ^ 64 := by
      rw [List.length_append] at hshort
      exact Nat.lt_of_le_of_lt (Nat.le_add_right _ _) hshort
    exact ih (hupdate h chunk hfirst) hshort

/-- Settles O22: a reset begins the empty stream, and each chunk extends the stream held. -/
theorem chunkingInvariance : Obligations.ChunkingInvariance :=
  ⟨fun seed chunks => foldl_chunks (holds := fun c => Ctx32.holdsStream c seed) ctx32_holdsStream_update chunks
      (ctx32_holdsStream_reset seed),
    fun seed chunks => foldl_chunks (holds := fun c => Ctx64.holdsStream c seed) ctx64_holdsStream_update chunks
      (ctx64_holdsStream_reset seed)⟩

/-! ### The step -/

/-- `nextStream32` and `nextStream64` on a write of CMD, with the words of the three commands that write the context. -/
def State.streamAfter {w : Nat} (s : State) (reset update hash : Word32) (seed : BitVec w) (c : Word32)
    (held : BitVec w × List Byte) : BitVec w × List Byte :=
  if s.status.err = true then held
  else if c = reset then (seed, [])
  else
    match s.chunkInBounds, s.chunk with
    | true, .ok data => if c = update then (held.1, held.2 ++ data) else if c = hash then (seed, data) else held
    | _, _ => held

section
variable {later : List Access} {c : Word32}

theorem nextStream32_powerOn (hin : s.inputs = .powerOn :: later) (held : Word32 × List Byte) :
    s.nextStream32 held = (0#32, []) := by
  rw [State.nextStream32, hin]

theorem nextStream64_powerOn (hin : s.inputs = .powerOn :: later) (held : Word64 × List Byte) :
    s.nextStream64 held = (0#64, []) := by
  rw [State.nextStream64, hin]

theorem nextStream32_writeCmd (hin : s.inputs = writeCmd c :: later) (held : Word32 × List Byte) :
    s.nextStream32 held = (s.setInputs later).streamAfter 0x1#32 0x2#32 0x4#32 s.seed32 c held := by
  rw [State.nextStream32, hin]
  rfl

theorem nextStream64_writeCmd (hin : s.inputs = writeCmd c :: later) (held : Word64 × List Byte) :
    s.nextStream64 held = (s.setInputs later).streamAfter 0x9#32 0xA#32 0xC#32 s.seed64 c held := by
  rw [State.nextStream64, hin]
  rfl

end

section
variable {w : Nat} {reset update hash c : Word32} {seed : BitVec w} {held : BitVec w × List Byte} {data : List Byte}

theorem streamAfter_locked (herr : s.status.err = true) :
    s.streamAfter reset update hash seed c held = held := if_pos herr

theorem streamAfter_outOfBounds (hc : c ≠ reset) (hb : s.chunkInBounds = false) :
    s.streamAfter reset update hash seed c held = held := by
  simp [State.streamAfter, hc, hb]

theorem streamAfter_reset (herr : s.status.err = false) :
    s.streamAfter reset update hash seed reset held = (seed, []) := by
  simp [State.streamAfter, herr]

theorem streamAfter_update (herr : s.status.err = false) (hb : s.chunkInBounds = true) (hdata : s.chunk = .ok data)
    (hne : update ≠ reset) :
    s.streamAfter reset update hash seed update held = (held.1, held.2 ++ data) := by
  simp [State.streamAfter, herr, hb, hdata, hne]

theorem streamAfter_hash (herr : s.status.err = false) (hb : s.chunkInBounds = true) (hdata : s.chunk = .ok data)
    (hne : hash ≠ reset ∧ hash ≠ update) :
    s.streamAfter reset update hash seed hash held = (seed, data) := by
  simp [State.streamAfter, herr, hb, hdata, hne]

/-- A word of no command that writes the context leaves the stream. -/
theorem streamAfter_other (hc : c ∉ [reset, update, hash]) :
    s.streamAfter reset update hash seed c held = held := by
  simp only [List.mem_cons, List.not_mem_nil, or_false, not_or] at hc
  obtain ⟨hreset, hupdate, hhash⟩ := hc
  unfold State.streamAfter
  simp only [if_neg hreset, if_neg hupdate, if_neg hhash]
  split_ifs
  · rfl
  · split <;> rfl

end

/-- A command that answers a next state ran on an unlocked block, or left both contexts and has a word that leaves both
streams. -/
theorem exec_ran_or_streams_kept {i : Instr} (h : exec i s = .next t) :
    (s.status.err = false ∧ (readsChunk i = true → s.chunkInBounds = true) ∧ Ran i s t) ∨
    (t.c32 = s.c32 ∧ t.c64 = s.c64 ∧
      (∀ held, s.streamAfter 0x1#32 0x2#32 0x4#32 s.seed32 (encode i) held = held) ∧
      ∀ held, s.streamAfter 0x9#32 0xA#32 0xC#32 s.seed64 (encode i) held = held) := by
  rcases exec_next h with ⟨rfl, rfl⟩ | ⟨-, herr, rfl⟩ | ⟨-, hreads, hb, rfl⟩ | hran
  · exact .inr ⟨rfl, rfl, fun _ => streamAfter_other (by decide), fun _ => streamAfter_other (by decide)⟩
  · exact .inr ⟨rfl, rfl, fun _ => streamAfter_locked herr, fun _ => streamAfter_locked herr⟩
  · have hword {reset : Word32} (hr : reset ∉ [0x2#32, 0xA#32, 0x4#32, 0xC#32]) : encode i ≠ reset :=
      ne_of_mem_of_not_mem (encode_mem_of_readsChunk hreads) hr
    exact .inr ⟨rfl, rfl, fun _ => streamAfter_outOfBounds (hword (by decide)) hb,
      fun _ => streamAfter_outOfBounds (hword (by decide)) hb⟩
  · exact .inl hran

/-- All that a command can do to the stream C32 holds: what its word says. -/
theorem exec_stream32 {i : Instr} (h : exec i s = .next t) {held next : Word32 × List Byte}
    (hheld : s.c32.holdsStream held.1 held.2)
    (hnext : next = s.streamAfter 0x1#32 0x2#32 0x4#32 s.seed32 (encode i) held) (hshort : next.2.length < 2 ^ 64) :
    t.c32.holdsStream next.1 next.2 := by
  subst hnext
  rcases exec_ran_or_streams_kept h with ⟨herr, hb, hran⟩ | ⟨hkept, -, hword, -⟩
  · cases hran
    case reset32 =>
      rw [encode, streamAfter_reset herr]
      exact ctx32_holdsStream_reset _
    case update32 data hdata =>
      rw [encode, streamAfter_update herr (hb rfl) hdata (by decide)] at hshort ⊢
      exact ctx32_holdsStream_update hheld data hshort
    case hash32 data hdata =>
      rw [encode, streamAfter_hash herr (hb rfl) hdata (by decide)] at hshort ⊢
      exact ctx32_holdsStream_update (ctx32_holdsStream_reset _) data hshort
    all_goals rwa [streamAfter_other (by decide)]
  · rwa [hword, hkept]

/-- All that a command can do to the stream C64 holds: what its word says. -/
theorem exec_stream64 {i : Instr} (h : exec i s = .next t) {held next : Word64 × List Byte}
    (hheld : s.c64.holdsStream held.1 held.2)
    (hnext : next = s.streamAfter 0x9#32 0xA#32 0xC#32 s.seed64 (encode i) held) (hshort : next.2.length < 2 ^ 64) :
    t.c64.holdsStream next.1 next.2 := by
  subst hnext
  rcases exec_ran_or_streams_kept h with ⟨herr, hb, hran⟩ | ⟨-, hkept, -, hword⟩
  · cases hran
    case reset64 =>
      rw [encode, streamAfter_reset herr]
      exact ctx64_holdsStream_reset _
    case update64 data hdata =>
      rw [encode, streamAfter_update herr (hb rfl) hdata (by decide)] at hshort ⊢
      exact ctx64_holdsStream_update hheld data hshort
    case hash64 data hdata =>
      rw [encode, streamAfter_hash herr (hb rfl) hdata (by decide)] at hshort ⊢
      exact ctx64_holdsStream_update (ctx64_holdsStream_reset _) data hshort
    all_goals rwa [streamAfter_other (by decide)]
  · rwa [hword, hkept]

/-- An input that is neither power-on nor a legal command leaves both streams. -/
theorem nextStream_other (hpower : ¬ ∃ later, s.inputs = .powerOn :: later)
    (hcmd : ¬ ∃ i later, s.inputs = writeCmd (encode i) :: later) :
    (∀ held, s.nextStream32 held = held) ∧ ∀ held, s.nextStream64 held = held := by
  by_cases hw : ∃ c later, s.inputs = writeCmd c :: later
  · obtain ⟨c, later, hin⟩ := hw
    have hc (i : Instr) : c ≠ encode i := by
      rintro rfl
      exact hcmd ⟨i, later, hin⟩
    constructor
    · intro held
      rw [nextStream32_writeCmd hin]
      exact streamAfter_other (by simpa using ⟨hc .reset32, hc .update32, hc .hash32⟩)
    · intro held
      rw [nextStream64_writeCmd hin]
      exact streamAfter_other (by simpa using ⟨hc .reset64, hc .update64, hc .hash64⟩)
  · constructor
    · intro held
      unfold State.nextStream32
      split
      · exact absurd ⟨_, ‹_›⟩ hpower
      · exact absurd ⟨_, _, ‹_›⟩ hw
      · rfl
    · intro held
      unfold State.nextStream64
      split
      · exact absurd ⟨_, ‹_›⟩ hpower
      · exact absurd ⟨_, _, ‹_›⟩ hw
      · rfl

/-- Settles O23: power-on resets both contexts, a legal command does to each stream what its word says, and no other
input touches a context. -/
theorem stepsKeepTheStreams : Obligations.StepsKeepTheStreams := by
  intro s t h
  by_cases hpower : ∃ later, s.inputs = .powerOn :: later
  · obtain ⟨later, hin⟩ := hpower
    rw [step_cons hin] at h
    cases h
    refine ⟨fun held _ _ => ?_, fun held _ _ => ?_⟩
    · rw [nextStream32_powerOn hin]
      exact ctx32_holdsStream_reset _
    · rw [nextStream64_powerOn hin]
      exact ctx64_holdsStream_reset _
  by_cases hcmd : ∃ i later, s.inputs = writeCmd (encode i) :: later
  · obtain ⟨i, later, hin⟩ := hcmd
    rw [step_writeCmd hin, command_of_decode (decode_encode i)] at h
    exact ⟨fun held hheld => exec_stream32 h hheld (nextStream32_writeCmd hin held),
      fun held hheld => exec_stream64 h hheld (nextStream64_writeCmd hin held)⟩
  · obtain ⟨hnext32, hnext64⟩ := nextStream_other hpower hcmd
    have hkept := ((step_digestsKept h).resolve_left hpower).resolve_left
      fun ⟨i, later, hin, _⟩ => hcmd ⟨i, later, hin⟩
    refine ⟨fun held hheld _ => ?_, fun held hheld _ => ?_⟩
    · rwa [hnext32, hkept.c32]
    · rwa [hnext64, hkept.c64]

end Sys2Proof.Machine
end

section
/-! UPDATE32 and UPDATE64: the update is what the pseudocode's loops compute (spec/42_update.md R152), the empty chunk
changes nothing, and what the commands keep. -/

namespace Sys2Proof.Machine

variable {s t : State}

/-! ### The loops of the pseudocode -/

/-- The copy loop writes its bytes over the buffer (spec/42_update.md R153, R154, R156). -/
theorem copyLoop_eq_overlay (buf : List Byte) (start : Nat) (bytes : List Byte)
    (h : start + bytes.length ≤ buf.length) : copyLoop buf start bytes = overlay buf start bytes := by
  induction bytes generalizing buf start with
  | nil => rw [copyLoop, overlay_empty]
  | cons b rest ih =>
    rw [List.length_cons] at h
    have hlt : start < buf.length := by omega
    have htake : (buf.set start b).take (start + 1) = buf.take start ++ [b] := by
      rw [List.take_succ_eq_append_getElem (by rwa [List.length_set]), List.take_set_of_le (Nat.le_refl _),
        List.getElem_set_self]
    have hdrop : (buf.set start b).drop (start + 1 + rest.length) = buf.drop (start + (rest.length + 1)) := by
      rw [List.drop_set_of_lt (by omega), show start + 1 + rest.length = start + (rest.length + 1) by omega]
    have hfit : (b :: rest).take (buf.length - start) = b :: rest.take (buf.length - (start + 1)) := by
      rw [show buf.length - start = buf.length - (start + 1) + 1 by omega, List.take_succ_cons]
    rw [copyLoop, ih _ _ (by rw [List.length_set]; omega), overlay, overlay, htake, hdrop, List.length_set,
      List.length_cons, hfit, List.append_assoc (buf.take start), List.singleton_append]

section
variable {w S : Nat} (e : Engine w)

/-- With fuel enough for the whole stripes past the cursor, the stripe loop mixes them all (spec/42_update.md R155). -/
theorem stripeLoop_eq (hS : 0 < S) (data : List Byte) (fuel p : Nat) (lanes : Lanes w)
    (hfuel : (data.drop p).length / S ≤ fuel) :
    stripeLoop e S data fuel p lanes = (p + (data.drop p).length / S * S,
      foldUnits (stripeMix e) S ((data.drop p).length / S) lanes (data.drop p)) := by
  induction fuel generalizing p lanes with
  | zero => rw [stripeLoop, Nat.le_zero.mp hfuel, Nat.zero_mul, foldUnits_zero, Nat.add_zero]
  | succ fuel ih =>
    rw [stripeLoop]
    split
    · rename_i hle
      rw [← List.length_drop] at hle
      have hdiv : (data.drop p).length / S = (data.drop (p + S)).length / S + 1 := by
        rw [Nat.div_eq_sub_div hS hle, List.length_drop, List.length_drop, Nat.sub_sub]
      rw [ih _ _ (by omega), hdiv, foldUnits_succ, List.drop_drop, Nat.succ_mul, Nat.add_assoc, Nat.add_comm S]
    · rename_i hlt
      rw [← List.length_drop, Nat.not_le] at hlt
      rw [Nat.div_eq_of_lt hlt, Nat.zero_mul, foldUnits_zero, Nat.add_zero]

/-- Step 3 leaves the pending buffer and the lanes that the pseudocode's two branches leave (spec/42_update.md R154). -/
theorem completePending_eq (c : Ctx w S) (data : List Byte) :
    (c.completePending e data).pbuf.toList =
      (if 0 < c.plen.val then copyLoop c.pbuf.toList c.plen.val (data.take (S - c.plen.val)) else c.pbuf.toList) ∧
    (c.completePending e data).lanes =
      if 0 < c.plen.val then stripeMix e c.lanes (c.completePending e data).pbuf.toList else c.lanes := by
  rcases Nat.eq_zero_or_pos c.plen.val with h0 | hpos
  · rw [Ctx.completePending, if_pos h0, h0, if_neg (Nat.lt_irrefl 0), if_neg (Nat.lt_irrefl 0)]
    exact ⟨rfl, rfl⟩
  · rw [Ctx.completePending, if_neg hpos.ne', if_pos hpos, if_pos hpos, copyLoop_eq_overlay, Ctx.headLength,
      if_neg hpos.ne']
    · exact ⟨rfl, rfl⟩
    · rw [List.length_take, Vector.length_toList]
      omega

/-- The copy of the last bytes is step 5's (spec/42_update.md R156). -/
theorem copyLoop_tail (c : Ctx w S) (rest : List Byte) :
    copyLoop c.pbuf.toList 0 (rest.drop (rest.length / S * S)) = (c.keepTail rest).pbuf.toList := by
  refine copyLoop_eq_overlay _ _ _ ?_
  rw [List.length_drop, ← Nat.mod_eq_sub_div_mul, Nat.zero_add, Vector.length_toList]
  exact (Nat.mod_lt _ (Nat.zero_lt_of_lt c.plen.isLt)).le

/-- Steps 2 to 5 leave what the pseudocode's loops leave (spec/42_update.md R152 to R156). -/
theorem absorb_eq_updatePseudo (c : Ctx w S) (data : List Byte) :
    ((c.absorb e data).lanes, (c.absorb e data).pbuf.toList, (c.absorb e data).plen.val) =
      updatePseudo e S c.lanes c.pbuf.toList c.plen.val data := by
  have hplen := c.plen.isLt
  by_cases fits : c.plen.val + data.length < S
  · rw [Ctx.absorb, dif_pos fits, updatePseudo, if_pos fits,
      copyLoop_eq_overlay _ _ _ (by rw [Vector.length_toList]; omega)]
    rfl
  · have hhead : (if 0 < c.plen.val then S - c.plen.val else 0) = c.headLength := by
      rw [Ctx.headLength]; split_ifs <;> omega
    obtain ⟨hpbuf, hlanes⟩ := completePending_eq e c data
    have hrest : data.length - (c.headLength + (data.drop c.headLength).length / S * S) =
        (data.drop c.headLength).length % S := by
      rw [Nat.mod_eq_sub_div_mul, ← Nat.sub_sub, List.length_drop]
    rw [Ctx.absorb, dif_neg fits, updatePseudo, if_neg fits]
    simp only [← hpbuf, ← hlanes, hhead]
    rw [stripeLoop_eq e (Nat.zero_lt_of_lt hplen) _ _ _ _
      ((Nat.div_le_self _ _).trans (by rw [List.length_drop]; omega))]
    simp only [hrest, ← List.drop_drop, copyLoop_tail]
    rfl

/-- `UpdateCore` leaves what the pseudocode's loops leave (spec/42_update.md R152). -/
theorem update_eq_updatePseudo (c : Ctx w S) (data : List Byte) :
    ((c.update e data).lanes, (c.update e data).pbuf.toList, (c.update e data).plen.val) =
      updatePseudo e S c.lanes c.pbuf.toList c.plen.val data :=
  absorb_eq_updatePseudo e (c.addLength data.length) data

/-- No update writes SEED (spec/10_state.md R28). -/
theorem update_seed (c : Ctx w S) (data : List Byte) : (c.update e data).seed = c.seed := by
  obtain ⟨hseed, -⟩ := update_spec e c data
  exact hseed

/-- `UpdateCore` of no bytes writes nothing (spec/42_update.md R160). -/
theorem update_nil (c : Ctx w S) : c.update e [] = c := by
  have htotal : c.addLength 0 = c := by
    rw [Ctx.addLength, BitVec.add_zero]
  have hbuf : writePbuf c.pbuf c.plen.val [] = c.pbuf := Vector.toList_inj.mp (overlay_empty _ _)
  rw [Ctx.update, List.length_nil, htotal, Ctx.absorb]
  simp only [List.length_nil, Nat.add_zero, dif_pos c.plen.isLt, hbuf]

end

/-! ### The chunk -/

/-- The chunk is the bytes that SRC holds there (spec/20_memory.md R52). -/
theorem chunk_eq_ok {data : List Byte} (hlen : data.length = s.argLen.toNat)
    (hbytes : ∀ k < s.argLen.toNat, s.src.read (s.argOff.toNat + k) = data[k]?) : s.chunk = .ok data :=
  (readRange_ok_iff _ _ _ _).mpr ⟨hlen, hbytes⟩

/-- A chunk in bounds that holds its bytes goes to the effect. -/
theorem withChunk_ok {data : List Byte} (hb : s.argOff.toNat + s.argLen.toNat ≤ s.cfg.srcBytes)
    (hdata : s.chunk = .ok data) (i : Instr) (effect : List Byte → Answer) : s.withChunk i effect = effect data := by
  rw [State.withChunk, if_pos ((chunkInBounds_iff s).mpr hb), hdata]

/-- UPDATE32 on an unlocked block and a written chunk in bounds (spec/42_update.md R158). -/
theorem exec_update32 {data : List Byte} (herr : s.status.err = false)
    (hb : s.argOff.toNat + s.argLen.toNat ≤ s.cfg.srcBytes) (hdata : s.chunk = .ok data) :
    exec .update32 s = .next (s.setC32 (s.c32.update data)) :=
  (unlessLocked_open herr _).trans (withChunk_ok hb hdata _ _)

/-- UPDATE64 on an unlocked block and a written chunk in bounds (spec/42_update.md R159). -/
theorem exec_update64 {data : List Byte} (herr : s.status.err = false)
    (hb : s.argOff.toNat + s.argLen.toNat ≤ s.cfg.srcBytes) (hdata : s.chunk = .ok data) :
    exec .update64 s = .next (s.setC64 (Ctx64.update s.c64 data)) :=
  (unlessLocked_open herr _).trans (withChunk_ok hb hdata _ _)

/-- The length step adds ARG_LEN, zero-extended (spec/42_update.md R150). -/
theorem ofNat_length_eq {data : List Byte} (hlen : data.length = s.argLen.toNat) :
    BitVec.ofNat 64 data.length = s.argLen.setWidth 64 := by
  rw [hlen, BitVec.ofNat_toNat]

/-- Settles O14: the update is the pseudocode's, and LARGE is set from the TOTAL_LEN just written. -/
theorem update32FollowsPseudocode : Obligations.Update32FollowsPseudocode := by
  intro s data herr hb hlen hbytes
  obtain ⟨hseed, htotal, -⟩ := update_spec xh32 s.c32.toCtx data
  refine ⟨s.c32.update data, exec_update32 herr hb (chunk_eq_ok hlen hbytes), hseed, ?_, ?_,
    update_eq_updatePseudo xh32 s.c32.toCtx data⟩
  · exact htotal.trans (by rw [ofNat_length_eq hlen])
  · rw [update32_large, ofNat_length_eq hlen, Bool.or_eq_true, decide_eq_true_iff]

/-- Settles O15: the update is the pseudocode's. -/
theorem update64FollowsPseudocode : Obligations.Update64FollowsPseudocode := by
  intro s data herr hb hlen hbytes
  obtain ⟨hseed, htotal, -⟩ := update_spec xh64 s.c64 data
  refine ⟨Ctx64.update s.c64 data, exec_update64 herr hb (chunk_eq_ok hlen hbytes), hseed, ?_,
    update_eq_updatePseudo xh64 s.c64 data⟩
  exact htotal.trans (by rw [ofNat_length_eq hlen])

/-! ### The empty chunk -/

/-- LARGE too is kept by an update of no bytes, unless TOTAL_LEN has reached 16 with LARGE clear, which the invariant
rules out (spec/10_state.md R26). -/
theorem ctx32_update_nil {c : Ctx32} (hc : c.SmallOk) : c.update [] = c := by
  have hlarge : largeAfter c.large (c.toCtx.addLength 0).totalLen = c.large := by
    cases hl : c.large with
    | true => rfl
    | false => simpa [largeAfter, Ctx.addLength] using (hc hl).1
  rw [Ctx32.update, update_nil, List.length_nil, hlarge]

/-- Settles O21: the chunk is empty, and the update of no bytes writes nothing. -/
theorem zeroLengthUpdateChangesNothing : Obligations.ZeroLengthUpdateChangesNothing := by
  intro s hs herr hlen hoff
  obtain ⟨-, -, -, -, -, hsmall, -⟩ := hs
  have hn : s.argLen.toNat = 0 := by rw [hlen, BitVec.toNat_zero]
  have hb : s.argOff.toNat + s.argLen.toNat ≤ s.cfg.srcBytes := by rwa [hn, Nat.add_zero]
  have hdata : s.chunk = .ok [] := by rw [State.chunk, hn, Memory.readRange]
  constructor
  · rw [exec_update32 herr hb hdata, ctx32_update_nil hsmall]
    rfl
  · rw [exec_update64 herr hb hdata, Ctx64.update, update_nil]
    rfl

/-! ### The frame -/

/-- All that a chunk command which answers a next state can have done: been discarded, raised because its chunk leaves
SRC, or run. -/
theorem exec_chunk_next {i : Instr} (hi : readsChunk i = true) (h : exec i s = .next t) :
    t = s ∨
    (t = s.raise .boundsViolation (encode i) ∧ s.cfg.srcBytes < s.argOff.toNat + s.argLen.toNat) ∨
    Ran i s t := by
  rcases exec_next h with ⟨rfl, -⟩ | ⟨-, -, rfl⟩ | ⟨-, -, hb, rfl⟩ | ⟨-, -, hran⟩
  · cases hi
  · exact .inl rfl
  · refine .inr (.inl ⟨rfl, ?_⟩)
    rw [← Nat.not_le, ← chunkInBounds_iff, hb]
    exact Bool.false_ne_true
  · exact .inr (.inr hran)

/-- Settles O44: discarded, raised or run, an update writes at most its own context, and never SEED. -/
theorem updateFrame : Obligations.UpdateFrame := by
  refine fun s t => ⟨fun h => ?_, fun h => ?_⟩
  · have hops := exec_operandsKept h
    rcases exec_chunk_next rfl h with rfl | ⟨rfl, hb⟩ | hran
    · exact ⟨rfl, rfl, hops, rfl, rfl, rfl, .inl ⟨rfl, rfl⟩⟩
    · exact ⟨rfl, rfl, hops, rfl, rfl, rfl, .inr ⟨rfl, hb⟩⟩
    · cases hran
      exact ⟨rfl, rfl, hops, update_seed xh32 s.c32.toCtx _, rfl, rfl, .inl ⟨rfl, rfl⟩⟩
  · have hops := exec_operandsKept h
    rcases exec_chunk_next rfl h with rfl | ⟨rfl, hb⟩ | hran
    · exact ⟨rfl, rfl, hops, rfl, rfl, rfl, .inl ⟨rfl, rfl⟩⟩
    · exact ⟨rfl, rfl, hops, rfl, rfl, rfl, .inr ⟨rfl, hb⟩⟩
    · cases hran
      exact ⟨rfl, rfl, hops, update_seed xh64 s.c64 _, rfl, rfl, .inl ⟨rfl, rfl⟩⟩

end Sys2Proof.Machine
end

section
/-! Which inputs run: each check in front of an effect, then the commands, the register window and the step, by when it
answers a next state (spec/42_update.md R161, spec/60_exceptions.md R203; log 2). -/

namespace Sys2Proof.Machine

variable {s : State}

/-! ### The checks -/

theorem unlessLocked_runs_iff (s : State) (effect : Answer) :
    (∃ t, s.unlessLocked effect = .next t) ↔ (s.status.err = false → ∃ t, effect = .next t) := by
  cases herr : s.status.err with
  | true => simp [unlessLocked_locked herr]
  | false => simp [unlessLocked_open herr]

/-- A range read answers bytes exactly when every byte of the range is written. -/
theorem readRange_runs_iff (m : Memory) (addr n : Nat) :
    (∃ data, m.readRange addr n = .ok data) ↔ m.written addr n := by
  constructor
  · rintro ⟨data, hread⟩ k hk
    obtain ⟨hlen, hbytes⟩ := (readRange_ok_iff m addr n data).mp hread
    rw [hbytes k hk, List.getElem?_eq_getElem (hlen ▸ hk), Option.isSome_some]
  · intro hwritten
    cases hread : m.readRange addr n with
    | ok data => exact ⟨data, rfl⟩
    | error bad =>
      obtain ⟨hfrom, hto, hnone, -⟩ := (readRange_error_iff m addr n bad).mp hread
      have hsome := hwritten (bad - addr) (by omega)
      rw [Nat.add_sub_cancel' hfrom, hnone] at hsome
      cases hsome

/-- A chunk command with a simple effect stops only at an unwritten byte of a chunk in bounds. -/
theorem withChunk_runs_iff (s : State) (i : Instr) (effect : List Byte → State) :
    (∃ t, s.withChunk i (fun data => .next (effect data)) = .next t) ↔
      (s.argOff.toNat + s.argLen.toNat ≤ s.cfg.srcBytes → s.src.written s.argOff.toNat s.argLen.toNat) := by
  rw [← chunkInBounds_iff, ← readRange_runs_iff, ← State.chunk]
  rcases withChunk_cases s i fun data => .next (effect data) with ⟨hb, he⟩ | ⟨hb, addr, hc, he⟩ | ⟨hb, data, hc, he⟩
  · simp [he, hb]
  · simp [he, hb, hc]
  · simp [he, hb, hc]

/-- A test that refuses when it fails. -/
theorem ite_runs_iff {defined : Bool} {effect : Answer} {why : Refusal} :
    (∃ t, (if defined = true then effect else .refused why) = .next t) ↔ defined = true ∧ ∃ t, effect = .next t := by
  cases defined <;> simp

/-! ### The commands and the inputs -/

theorem exec_runs_iff (i : Instr) (s : State) : (∃ t, exec i s = .next t) ↔ s.commandSafe i := by
  cases i
  case update32 | update64 | hash32 | hash64 =>
    refine (unlessLocked_runs_iff s _).trans ?_
    rw [withChunk_runs_iff, State.commandSafe, readsChunk, eq_self, true_imp_iff]
  case clrerr => exact iff_of_true ⟨_, rfl⟩ nofun
  case reset32 | reset64 | digest32 | digest64 =>
    exact iff_of_true ((unlessLocked_runs_iff s _).mpr fun _ => ⟨_, rfl⟩) nofun

theorem command_runs_iff (s : State) (c : Word32) :
    (∃ t, s.command c = .next t) ↔ ∀ i, decode c = .ok i → s.commandSafe i := by
  cases hdec : decode c with
  | ok i => simp [command_of_decode hdec, exec_runs_iff]
  | error r =>
    rw [command_of_illegal (legalWord_of_decode_error hdec), State.illegalCommand, unlessLocked_runs_iff]
    exact iff_of_true (fun _ => ⟨_, rfl⟩) nofun

theorem writeReg_runs_iff (s : State) (r : Reg) (v : Word32) :
    (∃ t, s.writeReg r v = .next t) ↔ (r = .cmd → ∀ i, decode v = .ok i → s.commandSafe i) := by
  cases r
  case cmd => rw [eq_self, true_imp_iff]; exact command_runs_iff s v
  all_goals exact iff_of_true ⟨_, rfl⟩ nofun

theorem hostSrcRead_runs_iff (s : State) (addr : Nat) :
    (∃ t, s.hostSrcRead addr = .next t) ↔ (s.src.read addr).isSome = true := by
  rw [State.hostSrcRead]
  cases s.src.read addr <;> simp

/-- An input answers a next state exactly when it is safe. -/
theorem perform_runs_iff (s : State) (a : Access) : (∃ t, s.perform a = .next t) ↔ s.inputSafe a := by
  cases a with
  | regRead => exact ite_runs_iff.trans (and_congr_right' (iff_of_true ⟨_, rfl⟩ trivial))
  | regWrite offset _ c =>
    refine ite_runs_iff.trans (and_congr_right' ?_)
    rw [writeReg_runs_iff, regAt_cmd_iff]
  | srcRead addr => exact ite_runs_iff.trans (and_congr_right' (hostSrcRead_runs_iff s addr))
  | srcWrite => exact ite_runs_iff.trans (and_congr_right' (iff_of_true ⟨_, rfl⟩ trivial))
  | powerOn => exact iff_of_true ⟨_, rfl⟩ ⟨rfl, trivial⟩

/-- Settles O37: the step is its first input, and whether that is safe does not depend on the inputs after it. -/
theorem safeInputsRun : Obligations.SafeInputsRun := by
  intro s a later hin
  rw [step_cons hin]
  exact perform_runs_iff (s.setInputs later) a

end Sys2Proof.Machine
end

section
/-! DIGEST32, DIGEST64, HASH32 and HASH64: the digest is what the pseudocode's loops compute (spec/43_digest.md R170),
it is the digest of the stream its context holds (R178), and what the commands keep. -/

namespace Sys2Proof.Machine

variable {s t : State}

/-! ### The loops of the pseudocode -/

/-- With fuel enough for the whole units past the cursor, the tail loop folds them all (spec/43_digest.md R173). -/
theorem tailLoop_eq {α : Type} (f : α → List Byte → α) {size : Nat} (hsize : 0 < size) (pbuf : List Byte)
    (plen : Nat) {fuel i : Nat} (h : α) (hfuel : (plen - i) / size ≤ fuel) :
    tailLoop f size pbuf plen fuel (i, h) =
      (i + (plen - i) / size * size, foldUnits f size ((plen - i) / size) h ((pbuf.take plen).drop i)) := by
  induction fuel generalizing i h with
  | zero => rw [tailLoop, Nat.le_zero.mp hfuel, Nat.zero_mul, foldUnits_zero, Nat.add_zero]
  | succ fuel ih =>
    rw [tailLoop]
    split
    · rename_i hle
      have hdiv : (plen - i) / size = (plen - (i + size)) / size + 1 := by
        rw [Nat.div_eq_sub_div hsize (by omega), Nat.sub_sub]
      have hunit : ((pbuf.take plen).drop i).take size = (pbuf.drop i).take size := by
        rw [List.drop_take, List.take_take, Nat.min_eq_left (by omega)]
      rw [ih _ (by omega), hdiv, foldUnits_succ, hunit, List.drop_drop, Nat.succ_mul, Nat.add_assoc, Nat.add_comm size]
    · rename_i hlt
      rw [Nat.div_eq_of_lt (by omega), Nat.zero_mul, foldUnits_zero, Nat.add_zero]

/-- The two tail loops of XH32 are step 3 on the pending bytes. -/
theorem tailLoops32_eq (c : Ctx 32 16) (h : Word32) :
    (tailLoop (fun h unit => fold1x32 h (le 8 unit)) 1 c.pbuf.toList c.plen.val 16
      (tailLoop (fun h unit => fold4x32 h (le 32 unit)) 4 c.pbuf.toList c.plen.val 16 (0, h))).2 =
      foldTail32 h c.pending := by
  have hplen := c.plen.isLt
  have hbytes : c.plen.val - 4 * (c.plen.val / 4) = c.plen.val % 4 := by omega
  rw [tailLoop_eq _ (by decide : 0 < 4) _ _ _ (by omega), Nat.zero_add, Nat.sub_zero, Nat.mul_comm _ 4,
    tailLoop_eq _ (by decide : 0 < 1) _ _ _ (by omega), Nat.div_one, hbytes, foldTail32, pending_length]
  rfl

/-- The digest of C32 is the pseudocode's. -/
theorem digestCore32_eq_digestPseudo32 (c : Ctx32) : digestCore32 c = digestPseudo32 c := by
  rw [digestCore32_eq, ← tailLoops32_eq, BitVec.setWidth_eq_extractLsb' (by decide)]
  rfl

/-- The three tail steps of XH64 are step 3 on the pending bytes; the one 4-byte fold is a loop of at most one round. -/
theorem tailLoops64_eq (c : Ctx 64 32) (h : Word64) :
    (tailLoop (fun h unit => fold1x64 h (le 8 unit)) 1 c.pbuf.toList c.plen.val 32
      (tailLoop (fun h unit => fold4x64 h (le 32 unit)) 4 c.pbuf.toList c.plen.val 1
        (tailLoop (fun h unit => fold8x64 h (le 64 unit)) 8 c.pbuf.toList c.plen.val 32 (0, h)))).2 =
      foldTail64 h c.pending := by
  have hplen := c.plen.isLt
  have hwords : (if 4 ≤ c.plen.val % 8 then 1 else 0) = (c.plen.val - 8 * (c.plen.val / 8)) / 4 := by
    split_ifs <;> omega
  have hbytes : c.plen.val - (8 * (c.plen.val / 8) + 4 * ((c.plen.val - 8 * (c.plen.val / 8)) / 4)) =
      c.plen.val % 4 := by omega
  rw [tailLoop_eq _ (by decide : 0 < 8) _ _ _ (by omega), Nat.zero_add, Nat.sub_zero, Nat.mul_comm _ 8,
    tailLoop_eq _ (by decide : 0 < 4) _ _ _ (by omega), Nat.mul_comm _ 4,
    tailLoop_eq _ (by decide : 0 < 1) _ _ _ (by omega), Nat.div_one, hbytes, foldTail64, pending_length, hwords]
  rfl

/-- The digest of C64 is the pseudocode's. -/
theorem digestCore64_eq_digestPseudo64 (c : Ctx64) : digestCore64 c = digestPseudo64 c := by
  rw [digestCore64_eq, ← tailLoops64_eq]
  rfl

/-! ### The digest of a stream -/

/-- Before its first whole stripe a stream leaves the lanes of the reset. -/
theorem streamLanes_of_lt {w S : Nat} (e : Engine w) (seed : BitVec w) {bytes : List Byte} (h : bytes.length < S) :
    streamLanes e S seed bytes = resetLanes e seed := by
  rw [streamLanes, Nat.div_eq_of_lt h, foldUnits_zero]

/-- DigestCore of a context gives the digest of the stream it holds: below 16 bytes V3 is still the seed
(spec/43_digest.md R178). -/
theorem digestCore32_of_holdsStream {c : Ctx32} {seed : Word32} {bytes : List Byte} (h : c.holdsStream seed bytes) :
    digestCore32 c = streamDigest32 seed bytes := by
  obtain ⟨⟨-, hlanes, -, hpending, htotal⟩, hlarge⟩ := h
  have hlen : BitVec.ofNat 32 bytes.length = c.totalLen.setWidth 32 := by rw [← htotal, BitVec.ofNat_toNat]
  rw [digestCore32_eq, streamDigest32, hpending, hlanes, hlarge, hlen]
  simp only [decide_eq_true_eq]
  split_ifs with hlong
  · rfl
  · rw [streamLanes_of_lt xh32 seed (Nat.not_le.mp hlong), resetLanes]

/-- As for C32, with 32 bytes and all of TOTAL_LEN (spec/43_digest.md R178). -/
theorem digestCore64_of_holdsStream {c : Ctx64} {seed : Word64} {bytes : List Byte} (h : c.holdsStream seed bytes) :
    digestCore64 c = streamDigest64 seed bytes := by
  obtain ⟨-, hlanes, -, hpending, htotal⟩ := h
  have hlen : BitVec.ofNat 64 bytes.length = c.totalLen := by
    rw [← htotal, BitVec.ofNat_toNat, BitVec.setWidth_eq]
  rw [digestCore64_eq, streamDigest64, hpending, hlanes, htotal, hlen]
  split_ifs with hlong
  · rfl
  · rw [streamLanes_of_lt xh64 seed (Nat.not_le.mp hlong), resetLanes]

/-! ### The commands -/

/-- What DIGEST32 writes when C32 holds a stream (spec/43_digest.md R178). -/
theorem digestC32_of_holdsStream {seed : Word32} {bytes : List Byte} (h : s.c32.holdsStream seed bytes) :
    s.digestC32 = s.setDigest false ((streamDigest32 seed bytes).setWidth 64) := by
  rw [State.digestC32, digestCore32_of_holdsStream h]

/-- DIGEST32 on an unlocked block (spec/43_digest.md R175). -/
theorem exec_digest32 (herr : s.status.err = false) : exec .digest32 s = .next s.digestC32 :=
  unlessLocked_open herr _

/-- What DIGEST64 writes when C64 holds a stream (spec/43_digest.md R178). -/
theorem digestC64_of_holdsStream {seed : Word64} {bytes : List Byte} (h : s.c64.holdsStream seed bytes) :
    s.digestC64 = s.setDigest true (streamDigest64 seed bytes) := by
  rw [State.digestC64, digestCore64_of_holdsStream h]

/-- DIGEST64 on an unlocked block (spec/43_digest.md R176). -/
theorem exec_digest64 (herr : s.status.err = false) : exec .digest64 s = .next s.digestC64 :=
  unlessLocked_open herr _

section
variable {data : List Byte}

/-- HASH32 on an unlocked block and a written chunk in bounds (spec/43_digest.md R180). -/
theorem exec_hash32 (herr : s.status.err = false) (hb : s.argOff.toNat + s.argLen.toNat ≤ s.cfg.srcBytes)
    (hdata : s.chunk = .ok data) :
    exec .hash32 s = .next (s.setC32 ((Ctx32.reset s.seed32).update data)).digestC32 :=
  (unlessLocked_open herr _).trans (withChunk_ok hb hdata _ _)

/-- HASH64 on an unlocked block and a written chunk in bounds (spec/43_digest.md R181). -/
theorem exec_hash64 (herr : s.status.err = false) (hb : s.argOff.toNat + s.argLen.toNat ≤ s.cfg.srcBytes)
    (hdata : s.chunk = .ok data) :
    exec .hash64 s = .next (s.setC64 (Ctx64.update (Ctx64.reset s.seed64) data)).digestC64 :=
  (unlessLocked_open herr _).trans (withChunk_ok hb hdata _ _)

/-- The context HASH32 leaves holds the stream of its seed and its chunk (spec/43_digest.md R178). -/
theorem hash32_holdsStream (hdata : s.chunk = .ok data) :
    ((Ctx32.reset s.seed32).update data).holdsStream s.seed32 data :=
  ctx32_holdsStream_update (ctx32_holdsStream_reset _) data ((chunk_length_lt hdata).trans (by decide))

/-- The context HASH64 leaves holds the stream of its seed and its chunk (spec/43_digest.md R178). -/
theorem hash64_holdsStream (hdata : s.chunk = .ok data) :
    (Ctx64.update (Ctx64.reset s.seed64) data).holdsStream s.seed64 data :=
  ctx64_holdsStream_update (ctx64_holdsStream_reset _) data ((chunk_length_lt hdata).trans (by decide))

end

/-- On an unlocked block a chunk command whose chunk leaves SRC raises with its own word (spec/60_exceptions.md
R202). -/
theorem exec_outOfBounds {i : Instr} (hi : readsChunk i = true) (herr : s.status.err = false)
    (hb : s.cfg.srcBytes < s.argOff.toNat + s.argLen.toNat) :
    exec i s = .next (s.raise .boundsViolation (encode i)) := by
  have hout : ¬ s.chunkInBounds = true := by rwa [chunkInBounds_iff, Nat.not_le]
  cases i
  case update32 | update64 | hash32 | hash64 => exact (unlessLocked_open herr _).trans (if_neg hout)
  all_goals cases hi

/-- A written digest on an unlocked block, field by field. -/
theorem setDigest_of_noError (herr : s.status.err = false) (wide : Bool) (d : Word64) :
    s.setDigest wide d = { s with
      result := d
      status := { err := false, rv := true, rw := wide, cause := s.status.cause } } := by
  rw [State.setDigest, Status.digestWritten, herr]

/-- Settles O16: the digest of C32 is the pseudocode's. -/
theorem digest32FollowsPseudocode : Obligations.Digest32FollowsPseudocode := by
  intro s herr
  rw [exec_digest32 herr, State.digestC32, digestCore32_eq_digestPseudo32, setDigest_of_noError herr]

/-- Settles O17: the digest of C64 is the pseudocode's. -/
theorem digest64FollowsPseudocode : Obligations.Digest64FollowsPseudocode := by
  intro s herr
  rw [exec_digest64 herr, State.digestC64, digestCore64_eq_digestPseudo64, setDigest_of_noError herr]

/-- Settles O18: the context left holds the stream (seed, chunk), and the digest written is that stream's. -/
theorem hash32DigestsItsChunk : Obligations.Hash32DigestsItsChunk := by
  intro s data herr hb hlen hbytes
  have hdata := chunk_eq_ok hlen hbytes
  have hholds := hash32_holdsStream hdata
  refine ⟨_, hholds, ?_⟩
  rw [exec_hash32 herr hb hdata, digestC32_of_holdsStream hholds, setDigest_of_noError (by exact herr)]
  rfl

/-- Settles O19: the context left holds the stream (seed, chunk), and the digest written is that stream's. -/
theorem hash64DigestsItsChunk : Obligations.Hash64DigestsItsChunk := by
  intro s data herr hb hlen hbytes
  have hdata := chunk_eq_ok hlen hbytes
  have hholds := hash64_holdsStream hdata
  refine ⟨_, hholds, ?_⟩
  rw [exec_hash64 herr hb hdata, digestC64_of_holdsStream hholds, setDigest_of_noError (by exact herr)]
  rfl

/-! ### HASH against RESET, UPDATE, DIGEST -/

/-- In bounds, HASH32 does what RESET32, UPDATE32 and DIGEST32 do in turn (spec/43_digest.md R182). -/
theorem hash32_eq_sequence {data : List Byte} (herr : s.status.err = false)
    (hb : s.argOff.toNat + s.argLen.toNat ≤ s.cfg.srcBytes) (hdata : s.chunk = .ok data) :
    ∃ r u d, exec .reset32 s = .next r ∧ exec .update32 r = .next u ∧ exec .digest32 u = .next d ∧
      exec .hash32 s = .next d :=
  ⟨_, _, _, exec_reset32 herr, exec_update32 herr hb hdata, exec_digest32 herr, exec_hash32 herr hb hdata⟩

/-- In bounds, HASH64 does what RESET64, UPDATE64 and DIGEST64 do in turn (spec/43_digest.md R182). -/
theorem hash64_eq_sequence {data : List Byte} (herr : s.status.err = false)
    (hb : s.argOff.toNat + s.argLen.toNat ≤ s.cfg.srcBytes) (hdata : s.chunk = .ok data) :
    ∃ r u d, exec .reset64 s = .next r ∧ exec .update64 r = .next u ∧ exec .digest64 u = .next d ∧
      exec .hash64 s = .next d :=
  ⟨_, _, _, exec_reset64 herr, exec_update64 herr hb hdata, exec_digest64 herr, exec_hash64 herr hb hdata⟩

/-- Settles O20: in bounds the chunk is still there after the reset; out of bounds HASH raises before it resets, and
UPDATE after the reset. -/
theorem hashIsResetUpdateDigest : Obligations.HashIsResetUpdateDigest := by
  intro s herr
  constructor
  · intro hb hwritten
    obtain ⟨data, hdata⟩ := (readRange_runs_iff _ _ _).mpr hwritten
    exact ⟨hash32_eq_sequence herr hb hdata, hash64_eq_sequence herr hb hdata⟩
  · intro hb
    exact ⟨⟨_, exec_outOfBounds rfl herr hb, rfl, rfl, rfl⟩,
      ⟨_, _, exec_reset32 herr, exec_outOfBounds rfl herr hb, ctx32_holdsStream_reset _, rfl, rfl⟩,
      ⟨_, exec_outOfBounds rfl herr hb, rfl, rfl, rfl⟩,
      ⟨_, _, exec_reset64 herr, exec_outOfBounds rfl herr hb, ctx64_holdsStream_reset _, rfl, rfl⟩⟩

/-! ### The digest depends on the stream only -/

/-- Settles O24: DIGEST and HASH both digest the stream (seed, concatenation): the chunks built it, or HASH does. -/
theorem digestDependsOnlyOnTheStream : Obligations.DigestDependsOnlyOnTheStream := by
  obtain ⟨chunks32, chunks64⟩ := chunkingInvariance
  refine ⟨fun seed chunks hshort => ⟨?_, ?_⟩, fun seed chunks hshort => ⟨?_, ?_⟩⟩
  · intro s t hctx herr h
    rw [exec_digest32 herr, digestC32_of_holdsStream (hctx ▸ chunks32 seed chunks hshort)] at h
    cases h
    rfl
  · rintro s t rfl hdata hb herr h
    rw [exec_hash32 herr ((chunkInBounds_iff s).mp hb) hdata, digestC32_of_holdsStream (hash32_holdsStream hdata)] at h
    cases h
    rfl
  · intro s t hctx herr h
    rw [exec_digest64 herr, digestC64_of_holdsStream (hctx ▸ chunks64 seed chunks hshort)] at h
    cases h
    rfl
  · rintro s t rfl hdata hb herr h
    rw [exec_hash64 herr ((chunkInBounds_iff s).mp hb) hdata, digestC64_of_holdsStream (hash64_holdsStream hdata)] at h
    cases h
    rfl

/-! ### What the commands keep -/

/-- Only RESET32, UPDATE32 and HASH32 write C32. -/
theorem exec_c32_kept {i : Instr} (hi : i ∉ [Instr.reset32, .update32, .hash32]) (h : exec i s = .next t) :
    t.c32 = s.c32 := by
  rcases exec_next h with ⟨-, rfl⟩ | ⟨-, -, rfl⟩ | ⟨-, -, -, rfl⟩ | ⟨-, -, hran⟩
  · rfl
  · rfl
  · rfl
  · cases hran
    case reset32 | update32 | hash32 => exact absurd (by decide) hi
    all_goals rfl

/-- Only RESET64, UPDATE64 and HASH64 write C64. -/
theorem exec_c64_kept {i : Instr} (hi : i ∉ [Instr.reset64, .update64, .hash64]) (h : exec i s = .next t) :
    t.c64 = s.c64 := by
  rcases exec_next h with ⟨-, rfl⟩ | ⟨-, -, rfl⟩ | ⟨-, -, -, rfl⟩ | ⟨-, -, hran⟩
  · rfl
  · rfl
  · rfl
  · cases hran
    case reset64 | update64 | hash64 => exact absurd (by decide) hi
    all_goals rfl

/-- Settles O25: RESULT is a function of the context alone, which none of the listed commands writes. -/
theorem digestIsIdempotent : Obligations.DigestIsIdempotent := by
  refine ⟨?_, ?_, ?_, ?_⟩
  · intro s t u v herr ht hctx herru hv
    cases (exec_digest32 herr).symm.trans ht
    cases (exec_digest32 herru).symm.trans hv
    exact ⟨congrArg (fun c => (digestCore32 c).setWidth 64) hctx, rfl⟩
  · intro t u i hi h
    have hother : ∀ j ∈ [Instr.digest32, .digest64, .reset64, .clrerr],
        j ∉ [Instr.reset32, .update32, .hash32] := by decide
    exact exec_c32_kept (hother i hi) h
  · intro s t u v herr ht hctx herru hv
    cases (exec_digest64 herr).symm.trans ht
    cases (exec_digest64 herru).symm.trans hv
    exact ⟨congrArg digestCore64 hctx, rfl⟩
  · intro t u i hi h
    have hother : ∀ j ∈ [Instr.digest32, .digest64, .reset32, .clrerr],
        j ∉ [Instr.reset64, .update64, .hash64] := by decide
    exact exec_c64_kept (hother i hi) h

/-- Settles O45: discarded or not, a digest writes at most RESULT, RV and RW. -/
theorem digestFrame : Obligations.DigestFrame := by
  rintro s t (h | h)
  · have hops := exec_operandsKept h
    rcases unlessLocked_next h with rfl | rfl <;> exact ⟨rfl, rfl, rfl, hops, rfl, rfl⟩
  · have hops := exec_operandsKept h
    rcases unlessLocked_next h with rfl | rfl <;> exact ⟨rfl, rfl, rfl, hops, rfl, rfl⟩

/-- Settles O46: discarded, raised or run, a hash keeps the other context and its operands. -/
theorem hashFrame : Obligations.HashFrame := by
  refine fun s t => ⟨fun h => ?_, fun h => ?_⟩
  · have hops := exec_operandsKept h
    refine ⟨exec_c64_kept (by decide) h, hops, ?_⟩
    rcases exec_chunk_next rfl h with rfl | ⟨rfl, hb⟩ | hran
    · exact .inl ⟨rfl, rfl, rfl⟩
    · exact .inr ⟨rfl, rfl, rfl, rfl, hb⟩
    · cases hran
      exact .inl ⟨rfl, rfl, rfl⟩
  · have hops := exec_operandsKept h
    refine ⟨exec_c32_kept (by decide) h, hops, ?_⟩
    rcases exec_chunk_next rfl h with rfl | ⟨rfl, hb⟩ | hran
    · exact .inl ⟨rfl, rfl, rfl⟩
    · exact .inr ⟨rfl, rfl, rfl, rfl, hb⟩
    · cases hran
      exact .inl ⟨rfl, rfl, rfl⟩

end Sys2Proof.Machine
end

section
/-! The error state: the order of the checks of a CMD write (spec/60_exceptions.md R204), what the error lock discards and
what it lets through (R206), and power-on as an input (R217). -/

namespace Sys2Proof.Machine

variable {s t : State} {c : Word32} {i : Instr} {later : List Access}

/-! ### Error entry -/

/-- The chunk commands by their words (spec/30_encoding.md R73). -/
theorem mem_chunkWords_iff (c : Word32) :
    c ∈ [0x2#32, 0xA#32, 0x4#32, 0xC#32] ↔ ∃ i, readsChunk i = true ∧ c = encode i := by
  constructor
  · intro h
    have hwords : c ∈ [Instr.update32, .update64, .hash32, .hash64].map encode := h
    obtain ⟨i, hi, rfl⟩ := List.mem_map.mp hwords
    have hreads : ∀ j ∈ [Instr.update32, .update64, .hash32, .hash64], readsChunk j = true := by decide
    exact ⟨i, hreads i hi, rfl⟩
  · rintro ⟨i, hi, rfl⟩
    exact encode_mem_of_readsChunk hi

/-- Settles O8: the listed words are the commands' own, and the bounds test precedes the effect. -/
theorem boundsViolationChangesNothingElse : Obligations.BoundsViolationChangesNothingElse := by
  intro s i word hmem herr hb
  have hwords : ∀ p ∈ [(Instr.update32, 0x2#32), (Instr.update64, 0xA#32), (Instr.hash32, 0x4#32),
      (Instr.hash64, 0xC#32)], readsChunk p.1 = true ∧ p.2 = encode p.1 := by decide
  obtain ⟨hi, hword : word = encode i⟩ := hwords _ hmem
  subst hword
  exact exec_outOfBounds hi herr (chunkEnd_toNat s ▸ hb)

/-! ### The order of the checks -/

theorem encode_injective : Function.Injective encode := by
  intro i j h
  have hdec : decode (encode i) = .ok j := by rw [h, decode_encode]
  exact Except.ok.inj ((decode_encode i).symm.trans hdec)

/-- While ERR = 1 every word but CLRERR's is discarded, legal or not (spec/60_exceptions.md R206). -/
theorem command_locked (herr : s.status.err = true) (hc : c ≠ 0x00000005#32) : s.command c = .next s := by
  cases hdec : decode c with
  | ok i =>
    obtain rfl := eq_encode_of_decode hdec
    rw [command_of_decode hdec]
    exact exec_locked (fun hi => hc (congrArg encode hi)) herr
  | error r =>
    rw [command_of_illegal (legalWord_of_decode_error hdec)]
    exact unlessLocked_locked herr _

/-- A command that runs to its effect leaves the error state as it was. -/
theorem Ran.err (h : Ran i s t) : t.status.err = s.status.err := by
  cases h <;> rfl

/-- A command that neither the lock nor the bounds test stops ends without an error (spec/60_exceptions.md R204). -/
theorem exec_noError (hlock : s.status.err = true → i = .clrerr)
    (hb : readsChunk i = true → s.chunkInBounds = true) (h : exec i s = .next t) : t.status.err = false := by
  rcases exec_next h with ⟨-, rfl⟩ | ⟨hi, herr, -⟩ | ⟨-, hi, hout, -⟩ | ⟨herr, -, hran⟩
  · rfl
  · exact absurd (hlock herr) hi
  · rw [hb hi] at hout
    cases hout
  · exact hran.err.trans herr

/-- Settles O5: past the lock only CLRERR's word finds ERR = 1, and that word is legal and reads no chunk. -/
theorem checksApplyInOrder : Obligations.ChecksApplyInOrder := by
  intro s c later hin
  have hstep := step_writeCmd hin
  have open_of_ne (hlock : ¬ (s.status.err = true ∧ c ≠ 0x00000005#32)) (hc : c ≠ 0x00000005#32) :
      s.status.err = false := Bool.eq_false_iff.mpr fun herr => hlock ⟨herr, hc⟩
  split_ifs with hlock hill hout
  · obtain ⟨herr, hc⟩ := hlock
    exact hstep.trans (command_locked (s := s.setInputs later) herr hc)
  · have hc : c ≠ 0x00000005#32 := by
      rintro rfl
      exact absurd hill (by decide)
    rw [hstep, command_of_illegal hill]
    exact unlessLocked_open (s := s.setInputs later) (open_of_ne hlock hc) _
  · obtain ⟨hword, hb⟩ := hout
    have hc : c ≠ 0x00000005#32 := by
      rintro rfl
      exact absurd hword (by decide)
    obtain ⟨i, hi, rfl⟩ := (mem_chunkWords_iff c).mp hword
    rw [hstep, command_of_decode (decode_encode i)]
    exact exec_outOfBounds (s := s.setInputs later) hi (open_of_ne hlock hc) hb
  · obtain ⟨i, rfl⟩ := (legalWord_iff c).mp (by simpa using hill)
    rw [command_of_decode (decode_encode i)] at hstep
    refine ⟨i, decode_encode i, hstep, fun t h => exec_noError ?_ ?_ (hstep.symm.trans h)⟩
    · intro herr
      by_contra hne
      exact hlock ⟨herr, fun hc => hne (encode_injective hc)⟩
    · intro hi
      rw [chunkInBounds_iff]
      exact Nat.not_lt.mp fun hb => hout ⟨encode_mem_of_readsChunk hi, hb⟩

/-! ### The error lock -/

/-- A host write of a byte below SRC_BYTES (spec/20_memory.md R59). -/
theorem step_srcWrite {addr : Nat} {v : Byte} (hin : s.inputs = .srcWrite addr v :: later)
    (ha : addr < s.cfg.srcBytes) : step s = .next ((s.setInputs later).setSrc (s.src.write addr v)) := by
  rw [step_cons hin]
  exact if_pos (srcAccessDefined_of_lt ha)

/-- Settles O6: only the command looks at the error lock; every other access is performed as in any state. -/
theorem errorLockDiscardsCommands : Obligations.ErrorLockDiscardsCommands := by
  intro s a later hin herr
  refine ⟨?_, fun v => ?_, fun v => ?_, fun v => ?_, fun v => ?_, ?_, ?_, ?_⟩
  · rintro c rfl hc
    exact (step_writeCmd hin).trans (command_locked (s := s.setInputs later) herr hc)
  · rintro rfl
    exact step_regWrite rfl hin
  · rintro rfl
    exact step_regWrite rfl hin
  · rintro rfl
    exact step_regWrite rfl hin
  · rintro rfl
    exact step_regWrite rfl hin
  · rintro addr v rfl ha
    exact step_srcWrite hin ha
  · rintro addr v rfl ha hv
    obtain ⟨-, hread, -⟩ := hostSrcAccesses s addr later
    exact hread v hin ha hv
  · rintro offset rfl halign hwindow
    exact step_regRead ((regAccessDefined_iff _ _).mpr ⟨rfl, halign, hwindow⟩) hin

/-- While ERR = 1 no input but CLRERR and power-on writes STATUS or ERRINFO (spec/60_exceptions.md R208). -/
theorem Performed.error_kept {a : Access} (h : Performed a s t) (herr : s.status.err = true)
    (hclrerr : a ≠ writeCmd 0x00000005#32) (hpower : a ≠ .powerOn) : t.status = s.status ∧ t.errinfo = s.errinfo := by
  cases h
  case powerOn => exact absurd rfl hpower
  case command offset c i hcmd hdec hexec =>
    obtain rfl := (regAt_cmd_iff offset).mp hcmd
    have hc : c ≠ 0x00000005#32 := fun hc => hclrerr (congrArg writeCmd hc)
    rw [← command_of_decode hdec, command_locked herr hc] at hexec
    cases hexec
    exact ⟨rfl, rfl⟩
  case illegal hopen => exact absurd (herr.symm.trans hopen) (by decide)
  all_goals exact ⟨rfl, rfl⟩

/-- Settles O7: STATUS and ERRINFO are kept whole, ERR and CAUSE with them. -/
theorem firstErrorIsKept : Obligations.FirstErrorIsKept := by
  intro s t a later hin herr hclrerr hpower h
  rw [step_cons hin] at h
  obtain ⟨hstatus, hinfo⟩ := (perform_next h).error_kept herr hclrerr hpower
  exact ⟨hstatus ▸ herr, congrArg Status.cause hstatus, hinfo⟩

/-! ### Power-on -/

/-- Power-on reset leads to the state after reset, the model's own fields kept: `ContextReset` with seed 0 is the context
written out there (spec/70_reset_and_hazards.md R230). -/
theorem powerOn_eq_reset (s : State) :
    s.powerOn = { State.reset with cfg := s.cfg, inputs := s.inputs, shown := s.shown } := by
  have h32 : Ctx32.reset 0#32 = State.reset.c32 := by decide
  have h64 : Ctx64.reset 0#64 = State.reset.c64 := by decide
  rw [State.powerOn, h32, h64]
  rfl

/-- Settles O49: power-on is performed as power-on reset, which leaves SRC empty. -/
theorem powerOnInputResets : Obligations.PowerOnInputResets := by
  refine ⟨fun s later hin => ?_, read_nil⟩
  rw [step_cons hin]
  exact congrArg Host.Outcome.next (powerOn_eq_reset (s.setInputs later))

end Sys2Proof.Machine
end

section
/-! Reset and hazards: the state after reset, the idle block, and the faults of reads that reach an unwritten byte of SRC
(spec/70_reset_and_hazards.md R230, R231, R233, R234; logs 2, 3). -/

namespace Sys2Proof.Machine

variable {s : State} {addr : Nat}

/-! ### Unwritten bytes -/

/-- A chunk in bounds with an unwritten byte stops the command at the first such byte, before its effect. -/
theorem withChunk_fault (hb : s.argOff.toNat + s.argLen.toNat ≤ s.cfg.srcBytes) (hchunk : s.chunk = .error addr)
    (i : Instr) (effect : List Byte → Answer) : s.withChunk i effect = .fault (.unwrittenSrcByte addr) := by
  rw [State.withChunk, if_pos ((chunkInBounds_iff s).mpr hb), hchunk]

/-- On an unlocked block a chunk command whose chunk is in bounds faults at the first unwritten byte of the chunk
(spec/93_implementation_defined.md U1). -/
theorem exec_fault {i : Instr} (hi : readsChunk i = true) (herr : s.status.err = false)
    (hb : s.argOff.toNat + s.argLen.toNat ≤ s.cfg.srcBytes) (hchunk : s.chunk = .error addr) :
    exec i s = .fault (.unwrittenSrcByte addr) := by
  cases i
  case update32 | update64 | hash32 | hash64 =>
    exact (unlessLocked_open herr _).trans (withChunk_fault hb hchunk _ _)
  all_goals cases hi

theorem hostSrcRead_fault (hread : s.src.read addr = none) :
    s.hostSrcRead addr = .fault (.unwrittenSrcByte addr) := by
  rw [State.hostSrcRead, hread]

/-- Settles O10: the chunk's range read answers its first unwritten address, and a host read the one it is for. -/
theorem unwrittenByteFaults : Obligations.UnwrittenByteFaults := by
  refine ⟨fun s i addr hi herr hb hfrom hto hnone hbelow => ?_, fun s addr later hin haddr hnone => ?_⟩
  · have hchunk : s.chunk = .error addr := (readRange_error_iff _ _ _ _).mpr ⟨hfrom, hto, hnone, hbelow⟩
    exact exec_fault hi herr hb hchunk
  · rw [step_cons hin]
    exact (if_pos (srcAccessDefined_of_lt haddr)).trans (hostSrcRead_fault (s := s.setInputs later) hnone)

/-! ### The idle block -/

/-- Settles O38: the step finds no input to perform. -/
theorem idleStepChangesNothing : Obligations.IdleStepChangesNothing :=
  fun _ => step_nil

/-! ### The state after reset -/

/-- Power-on in the state after reset changes nothing, so that state is one that power-on leaves. -/
theorem powerOn_reset : State.reset.powerOn = State.reset := powerOn_eq_reset State.reset

/-- Settles O48: the state after reset is the one power-on leaves, written with `ContextReset`. -/
theorem powerOnState : Obligations.PowerOnState := by
  rw [Obligations.PowerOnState, ← powerOn_reset]
  exact ⟨rfl, rfl, rfl, rfl, rfl, rfl, rfl, rfl, rfl⟩

/-- Settles O50: power-on establishes the invariant for any SRC_BYTES in range, and `ContextReset` begins the empty
stream of its seed. -/
theorem resetHasTheInvariant : Obligations.ResetHasTheInvariant := by
  rw [Obligations.ResetHasTheInvariant, ← powerOn_reset]
  exact ⟨inv_powerOn rfl, ctx32_holdsStream_reset 0#32, ctx64_holdsStream_reset 0#64⟩

end Sys2Proof.Machine
end
